-- ==== Sys2Proof/Word.lean ====
section
/-! DEFINITION. The word types of CRCE-1.0: one name per width the spec gives (`00_scope.md` R5). -/

namespace Sys2Proof

/-- A polynomial value: bit `i` is the coefficient of `x^i` (R63, R120). -/
abbrev Poly := BitVec 16

/-- One answer of the random source, standing for `u / 65536` (R9). -/
abbrev Draw := BitVec 16

/-- The success probability as a threshold `T`, standing for `T / 65536` (R26). -/
abbrev Threshold := BitVec 17

/-- The information-word width `k` (R27). -/
abbrev WordWidth := BitVec 5

/-- An event counter (R28, R29). -/
abbrev Counter := BitVec 32

/-- A command word (R90). -/
abbrev CmdWord := BitVec 32

/-- The number of a general register (R93). -/
abbrev RegNum := BitVec 3

/-- A read-port select (R38). -/
abbrev Select := BitVec 5

end Sys2Proof
end

