-- ==== Sys2Proof/Config.lean ====
section
/-! DEFINITION. The parameters CRCE-1.0 fixes (`00_scope.md` R5) and the one free value: a draw that no recorded answer gives. -/

namespace Sys2Proof.Config

/-- `W`: width of a polynomial value and of a draw. -/
abbrev polyBits : Nat := 16

/-- `NREG`: number of general registers. -/
abbrev regCount : Nat := 8

/-- The number of values a draw can take, `2^P` with `P = 16` fraction bits: the threshold of probability 1. -/
abbrev probOne : Nat := 65536

/-- The largest legal information-word width (R27) and transmission width (R94). -/
abbrev widthMax : Nat := 16

/-- `NMAX`: the largest trial count one `RUN` carries. -/
abbrev trialsMax : Nat := 2 ^ 24 - 1

/-- `CMAX`: the largest value of a counter. -/
abbrev counterMax : Nat := 2 ^ 32 - 1

/-- The `j`-th draw since the source was set up, where no recorded answer gives it: a FREE VALUE (R9, U10 of
`93_implementation_defined.md`; DESIGN CHOICE, log entry 2). It has no body, so no proof can rest on its value. -/
opaque freeDraw : Nat → Draw

end Sys2Proof.Config
end

