-- ==== Sys2Proof/Syntax.lean ====
section
/-! DEFINITION. The commands of the engine: one constructor per row of the opcode table (`30_encoding.md` R92, R95). -/

namespace Sys2Proof

/-- A command. A field holds exactly the bits the word gives it: a value out of a command's legal range is a
legal command that faults when it is executed (R94). -/
inductive Instr where
  /-- `LDI rd, imm16` (R126). -/
  | ldi (rd : RegNum) (imm16 : BitVec 16)
  /-- `DEG rd, rs1` (R127). -/
  | deg (rd rs1 : RegNum)
  /-- `MOD rd, rs1, rs2` (R128). -/
  | mod (rd rs1 rs2 : RegNum)
  /-- `SETG rs1` (R141). -/
  | setg (rs1 : RegNum)
  /-- `SETP imm24` (R142). -/
  | setp (imm24 : BitVec 24)
  /-- `SETK imm24` (R143). -/
  | setk (imm24 : BitVec 24)
  /-- `ENC rd, rs1` (R152). -/
  | enc (rd rs1 : RegNum)
  /-- `TX rd, rs1, w` (R163). -/
  | tx (rd rs1 : RegNum) (w : BitVec 5)
  /-- `DEC rd, rs1` (R173). -/
  | dec (rd rs1 : RegNum)
  /-- `TRIAL` (R184). -/
  | trial
  /-- `RUN imm24` (R186). -/
  | run (imm24 : BitVec 24)
  /-- `RATE` (R189). -/
  | rate
  deriving DecidableEq, Repr

end Sys2Proof
end

