-- ==== Sys2Proof/WellFormed.lean ====
section
/-! DEFINITION. The written form of a command (`30_encoding.md` R99) and the check an assembler makes of it: a mnemonic of the
table, the operands its row asks for, each one fitting its field. A field of `Instr` holds exactly the bits of its word, so
this is the only place an ill-formed command can be written down. -/

namespace Sys2Proof

/-- An operand as written: a register `x<n>` or an immediate number. -/
inductive Operand where
  | reg (n : Nat)
  | imm (n : Nat)
  deriving DecidableEq, Repr

/-- A command as written: mnemonic, then operands in the order of R99. -/
structure Written where
  mnemonic : String
  operands : List Operand
  deriving DecidableEq, Repr

/-- What an operand position takes: a register, or an immediate of a field of so many bits. -/
inductive Slot where
  | reg
  | imm (bits : Nat)
  deriving DecidableEq, Repr

/-- The operand positions of each mnemonic (the table of R99, with the field widths of R91). -/
def slotsOf : List (String × List Slot) :=
  [ ("LDI",   [.reg, .imm 16]),
    ("DEG",   [.reg, .reg]),
    ("MOD",   [.reg, .reg, .reg]),
    ("SETG",  [.reg]),
    ("SETP",  [.imm 24]),
    ("SETK",  [.imm 24]),
    ("ENC",   [.reg, .reg]),
    ("TX",    [.reg, .reg, .imm 5]),
    ("DEC",   [.reg, .reg]),
    ("TRIAL", []),
    ("RUN",   [.imm 24]),
    ("RATE",  []) ]

/-- "An assembler rejects an operand that does not fit its field" (R99). -/
def Operand.fits : Operand → Slot → Bool
  | .reg n, .reg => n < 8
  | .imm n, .imm bits => n < 2 ^ bits
  | .reg _, .imm _ => false
  | .imm _, .reg => false

/-- The operands fit the positions one by one, and there are as many of them. -/
def operandsFit : List Operand → List Slot → Bool
  | [], [] => true
  | o :: os, p :: ps => o.fits p && operandsFit os ps
  | [], _ :: _ => false
  | _ :: _, [] => false

/-- The assembler's check of a written command (R99). -/
def Written.wellFormed (t : Written) : Bool :=
  match slotsOf.lookup t.mnemonic with
  | some ps => operandsFit t.operands ps
  | none => false

/-- The written form of a command: destination, sources, immediate (R99). -/
def Instr.written : Instr → Written
  | .ldi rd imm16 => ⟨"LDI", [.reg rd.toNat, .imm imm16.toNat]⟩
  | .deg rd rs1 => ⟨"DEG", [.reg rd.toNat, .reg rs1.toNat]⟩
  | .mod rd rs1 rs2 => ⟨"MOD", [.reg rd.toNat, .reg rs1.toNat, .reg rs2.toNat]⟩
  | .setg rs1 => ⟨"SETG", [.reg rs1.toNat]⟩
  | .setp imm24 => ⟨"SETP", [.imm imm24.toNat]⟩
  | .setk imm24 => ⟨"SETK", [.imm imm24.toNat]⟩
  | .enc rd rs1 => ⟨"ENC", [.reg rd.toNat, .reg rs1.toNat]⟩
  | .tx rd rs1 w => ⟨"TX", [.reg rd.toNat, .reg rs1.toNat, .imm w.toNat]⟩
  | .dec rd rs1 => ⟨"DEC", [.reg rd.toNat, .reg rs1.toNat]⟩
  | .trial => ⟨"TRIAL", []⟩
  | .run imm24 => ⟨"RUN", [.imm imm24.toNat]⟩
  | .rate => ⟨"RATE", []⟩

/-- A command is well formed when its written form is. The types of its fields make every command so. -/
def Instr.wellFormed (i : Instr) : Bool := i.written.wellFormed

end Sys2Proof
end

