-- ==== Sys2Proof/Decode.lean ====
section
/-! DEFINITION. The decoder and the encoder of command words (`30_encoding.md` R90 to R97). The engine has no bytes and fetches
nothing (R61, R24): a word arrives whole on the command port, so decoding starts from the 32-bit word. -/

namespace Sys2Proof

/-- Why a word is no command (R97). Both raise IllegalCommand when the word is executed. -/
inductive IllegalWord where
  /-- `op` is 0x00 or 0x0D .. 0xFF. -/
  | undefinedOpcode
  /-- `op` is defined and a must-be-zero bit of that command is 1. -/
  | mbzNotZero
  deriving DecidableEq, Repr

/-! ### Fields of a word (R91) -/

def fieldOp (c : CmdWord) : BitVec 8 := c.extractLsb' 24 8
def fieldRd (c : CmdWord) : RegNum := c.extractLsb' 21 3
def fieldRs1 (c : CmdWord) : RegNum := c.extractLsb' 18 3
def fieldRs2 (c : CmdWord) : RegNum := c.extractLsb' 15 3
def fieldW (c : CmdWord) : BitVec 5 := c.extractLsb' 10 5
def fieldImm16 (c : CmdWord) : BitVec 16 := c.extractLsb' 0 16
def fieldImm24 (c : CmdWord) : BitVec 24 := c.extractLsb' 0 24

/-! ### The table of R95 -/

/-- A row of R95: a word is this row's command exactly when `(c & mask) == pattern`. -/
structure Row where
  mnemonic : String
  pattern : CmdWord
  mask : CmdWord
  build : CmdWord → Instr

def Row.hits (r : Row) (c : CmdWord) : Bool := c &&& r.mask == r.pattern

def rows : List Row :=
  [ ⟨"LDI",   0x01000000, 0xFF1F0000, fun c => .ldi (fieldRd c) (fieldImm16 c)⟩,
    ⟨"DEG",   0x02000000, 0xFF03FFFF, fun c => .deg (fieldRd c) (fieldRs1 c)⟩,
    ⟨"MOD",   0x03000000, 0xFF007FFF, fun c => .mod (fieldRd c) (fieldRs1 c) (fieldRs2 c)⟩,
    ⟨"SETG",  0x04000000, 0xFFE3FFFF, fun c => .setg (fieldRs1 c)⟩,
    ⟨"SETP",  0x05000000, 0xFF000000, fun c => .setp (fieldImm24 c)⟩,
    ⟨"SETK",  0x06000000, 0xFF000000, fun c => .setk (fieldImm24 c)⟩,
    ⟨"ENC",   0x07000000, 0xFF03FFFF, fun c => .enc (fieldRd c) (fieldRs1 c)⟩,
    ⟨"TX",    0x08000000, 0xFF0383FF, fun c => .tx (fieldRd c) (fieldRs1 c) (fieldW c)⟩,
    ⟨"DEC",   0x09000000, 0xFF03FFFF, fun c => .dec (fieldRd c) (fieldRs1 c)⟩,
    ⟨"TRIAL", 0x0A000000, 0xFFFFFFFF, fun _ => .trial⟩,
    ⟨"RUN",   0x0B000000, 0xFF000000, fun c => .run (fieldImm24 c)⟩,
    ⟨"RATE",  0x0C000000, 0xFFFFFFFF, fun _ => .rate⟩ ]

/-- The total decoder of R96: the row a word matches, or the reason it matches none (R97). -/
def decode (c : CmdWord) : Except IllegalWord Instr :=
  match rows.find? (·.hits c) with
  | some r => .ok (r.build c)
  | none =>
    if rows.any (fun r => fieldOp r.pattern == fieldOp c) then .error .mbzNotZero
    else .error .undefinedOpcode

/-! ### The encoder: the four formats of R91 with every unused field zero -/

def formatN (op : BitVec 8) : CmdWord := op ++ (0 : BitVec 24)

def formatI (op : BitVec 8) (imm24 : BitVec 24) : CmdWord := op ++ imm24

def formatL (op : BitVec 8) (rd : RegNum) (imm16 : BitVec 16) : CmdWord :=
  op ++ rd ++ (0 : BitVec 5) ++ imm16

def formatR (op : BitVec 8) (rd rs1 rs2 : RegNum) (w : BitVec 5) : CmdWord :=
  op ++ rd ++ rs1 ++ rs2 ++ w ++ (0 : BitVec 10)

/-- The word of a command (R92, R95). -/
def encode : Instr → CmdWord
  | .ldi rd imm16 => formatL 0x01 rd imm16
  | .deg rd rs1 => formatR 0x02 rd rs1 0 0
  | .mod rd rs1 rs2 => formatR 0x03 rd rs1 rs2 0
  | .setg rs1 => formatR 0x04 0 rs1 0 0
  | .setp imm24 => formatI 0x05 imm24
  | .setk imm24 => formatI 0x06 imm24
  | .enc rd rs1 => formatR 0x07 rd rs1 0 0
  | .tx rd rs1 w => formatR 0x08 rd rs1 0 w
  | .dec rd rs1 => formatR 0x09 rd rs1 0 0
  | .trial => formatN 0x0A
  | .run imm24 => formatI 0x0B imm24
  | .rate => formatN 0x0C

/-- The command an instruction of the opcode table's numbering stands for: its `nbits` low bits are those of `w`,
the bits above are 0. A command is one 32-bit word, so the word is taken as it is (log entry 11). -/
def decodeTableWord (nbits w : Nat) : Option Instr :=
  match decode (BitVec.ofNat 32 (w % 2 ^ nbits)) with
  | .ok i => some i
  | .error _ => none

end Sys2Proof
end

