-- ==== Sys2Proof/Machine/State.lean ====
section
/-! DEFINITION. The state of the engine (`10_state.md` R20), its two inputs (the host's actions, the random source's answers), and
the state right after reset (R44, R240). -/

namespace Sys2Proof.Machine

/-- The kinds of fault of the ENGINE (`60_exceptions.md` R201). Each is entered by a next state (R208), not by an outcome
`fault` of the model. -/
inductive Cause where
  | configurationError
  | divisionByZero
  | invalidProbability
  | operandRange
  | counterOverflow
  | illegalCommand
  deriving DecidableEq, Repr

/-- The fields of `STATUS` (R32). Bits 31:3 are no field: they read as 0. -/
structure Status where
  /-- Bit 0: at least one bit was flipped in the last transmission. -/
  flip : Bool
  /-- Bit 1: the last decode had a nonzero syndrome. -/
  errdet : Bool
  /-- Bit 2: the engine has faulted. -/
  halt : Bool
  deriving DecidableEq, Repr

/-- The random source as the engine sees it (R41, R72): the answers it is known to give, oldest first; how many draws
were consumed since it was set up; and whether it falls silent after the known answers (R252) or goes on with free
values (log entry 2). -/
structure RandomSource where
  answers : List Draw
  used : Nat
  silent : Bool
  deriving DecidableEq, Repr

/-- What the host does next at the ports (R249). No action sets the random source, not at a reset either (R244 leaves it to the
model: DESIGN CHOICE, log entry 18). -/
inductive HostAction where
  /-- Presents a word on the command port (R39). -/
  | command (word : CmdWord)
  /-- Asserts and releases `reset` (R40, R240). -/
  | reset
  /-- Presents a word and asserts `reset` while it executes, after `draws` of its draws or all of them if it has fewer
  (R244, U11). -/
  | commandCutByReset (word : CmdWord) (draws : Nat)
  deriving DecidableEq, Repr

/-- Whether a command is in execution between two steps: only one that waits for a draw that never comes (R252). -/
inductive Activity where
  | idle
  | waiting
  deriving DecidableEq, Repr

structure State where
  /-- `x0` to `x7` (R21). -/
  x : Vector Poly 8
  /-- `GEN` (R25). -/
  gen : Poly
  /-- `PROB` (R26). -/
  prob : Threshold
  /-- `KW` (R27). -/
  kw : WordWidth
  /-- `SENT` (R28). -/
  sent : Counter
  /-- `DET` (R29). -/
  det : Counter
  /-- `SYN` (R31). -/
  syn : Poly
  /-- `STATUS` (R32). -/
  status : Status
  /-- `ERR.code` (R34). -/
  err : BitVec 4
  /-- `ECMD` (R35). -/
  ecmd : CmdWord
  /-- The model's own: idle, or stuck in a command that waits for a draw (R252). -/
  activity : Activity
  /-- The model's own: the random source's input (R9). -/
  source : RandomSource
  /-- The model's own: the host's pending actions, in order (R14). -/
  host : List HostAction
  deriving DecidableEq, Repr

/-- No step of this machine stops: every error of the spec is a fault entry with a next state (R208), and the stuck
state of R252 is a state that only reset leaves. So there is no reason to stop and no constructor (log entry 10). -/
inductive Fault where
  deriving DecidableEq, Repr

inductive Refusal where
  /-- A command that has no meaning in the model yet. No arm of `exec` raises it: every command has its meaning.
  Safe: the model would stop where the hardware goes on. -/
  | notModelled (mnemonic : String)
  deriving DecidableEq, Repr

/-- The engine right after reset: every register 0 (R44), idle (R240). The three last fields are the model's own:
no host action is pending and no draw is recorded (DESIGN CHOICE, log entries 1 and 2). -/
def State.reset : State where
  x := Vector.replicate 8 0
  gen := 0
  prob := 0
  kw := 0
  sent := 0
  det := 0
  syn := 0
  status := ⟨false, false, false⟩
  err := 0
  ecmd := 0
  activity := .idle
  source := ⟨[], 0, false⟩
  host := []

end Sys2Proof.Machine
end

