-- ==== Sys2Proof/Machine/Ops.lean ====
section
/-! DEFINITION. The named operations over the state: register access, the random source, fault entry (`60_exceptions.md` R208),
reset (`70_reset_and_hazards.md` R240), waiting for a draw (R252), and the one shape every command has. -/

namespace Sys2Proof.Machine

/-! ### General registers (`10_state.md` R21: none hardwired) -/

def State.readX (s : State) (r : RegNum) : Poly := s.x[r.toNat]'r.isLt

def State.writeX (s : State) (r : RegNum) (v : Poly) : State :=
  { s with x := s.x.set r.toNat v r.isLt }

/-! ### The other registers -/

def State.setGen (s : State) (v : Poly) : State := { s with gen := v }
def State.setProb (s : State) (v : Threshold) : State := { s with prob := v }
def State.setKw (s : State) (v : WordWidth) : State := { s with kw := v }
def State.setSent (s : State) (v : Counter) : State := { s with sent := v }
def State.setDet (s : State) (v : Counter) : State := { s with det := v }
def State.setSyn (s : State) (v : Poly) : State := { s with syn := v }
def State.setFlip (s : State) (b : Bool) : State := { s with status := { s.status with flip := b } }
def State.setErrdet (s : State) (b : Bool) : State := { s with status := { s.status with errdet := b } }
def State.setSource (s : State) (d : RandomSource) : State := { s with source := d }
def State.setHost (s : State) (as : List HostAction) : State := { s with host := as }

/-! ### Faults -/

/-- The cause code of a fault (R201). -/
def Cause.code : Cause → BitVec 4
  | .configurationError => 1
  | .divisionByZero => 2
  | .invalidProbability => 3
  | .operandRange => 4
  | .counterOverflow => 5
  | .illegalCommand => 6

/-- Fault entry (R208): the code, the word and `HALT` are written; everything else keeps its value. -/
def State.raise (s : State) (f : Cause) (word : CmdWord) : State :=
  { s with err := f.code, ecmd := word, status := { s.status with halt := true } }

/-- The output `cmd_ready` (R39): no command is in execution and the engine is not halted (R210). -/
def State.ready (s : State) : Bool := s.activity == .idle && s.err == 0

/-! ### Reset -/

/-- Reset (R240): every register at its reset value, the engine idle. The engine's reset does not reset the random source
(R244, R245), and the host of this model does nothing with the source at a reset either (DESIGN CHOICE, log entry 18): it goes
on where it was, and a silent one stays silent. The host's later actions stay pending. -/
def State.resetEngine (s : State) : State :=
  { State.reset with source := s.source, host := s.host }

/-! ### The random source -/

/-- One `Draw()` (R9, R41): the next answer, or none if the source is silent. -/
def RandomSource.draw (d : RandomSource) : Option (Draw × RandomSource) :=
  match d.answers with
  | u :: us => some (u, { d with answers := us, used := d.used + 1 })
  | [] => if d.silent then none else some (Config.freeDraw d.used, { d with used := d.used + 1 })

/-- `n` draws, one after another, in order (R72); none if the source falls silent before the last. -/
def RandomSource.take : Nat → RandomSource → Option (List Draw × RandomSource)
  | 0, d => some ([], d)
  | n + 1, d =>
    match d.draw with
    | none => none
    | some (u, d₁) =>
      match RandomSource.take n d₁ with
      | none => none
      | some (us, d₂) => some (u :: us, d₂)

/-- The source after up to `n` draws: those it answers are consumed (R244). -/
def RandomSource.skip : Nat → RandomSource → RandomSource
  | 0, d => d
  | n + 1, d =>
    match d.draw with
    | none => d
    | some (_, d₁) => RandomSource.skip n d₁

/-- The source after a command that asked for more draws than it answers: all its answers are consumed (R252). -/
def RandomSource.exhausted (d : RandomSource) : RandomSource :=
  { d with answers := [], used := d.used + d.answers.length }

/-- The stuck state of R252: the command does not complete, no fault is recorded, the engine is neither idle nor halted.
What the registers hold meanwhile cannot be observed (R38, U4); the model leaves them (DESIGN CHOICE, log entry 3). -/
def State.awaitDraws (s : State) : State :=
  { s with activity := .waiting, source := s.source.exhausted }

/-- Consumes `n` draws and hands them, in order, to `use`; waits if the source does not answer them all. -/
def State.drawing (s : State) (n : Nat) (use : List Draw → State → State) : State :=
  match s.source.take n with
  | some (us, d) => use us (s.setSource d)
  | none => s.awaitDraws

/-! ### The shape of a command -/

/-- A command that is not halted makes its checks in order (R212); the first that fails raises its fault, with the
command's word in `ECMD`, and nothing else happens (R8, R209); if all pass, it has its effect. An engine that is not
ready takes no command (R39, R210). -/
def State.runCommand {α : Type} (s : State) (i : Instr) (checks : Except Cause α) (effect : α → State) :
    Host.Outcome State Fault Refusal :=
  if s.ready then
    match checks with
    | .error f => .next (s.raise f (encode i))
    | .ok a => .next (effect a)
  else .next s

/-- A word that is no command (R207): IllegalCommand, unless the engine takes no word. -/
def State.takeIllegal (s : State) (word : CmdWord) : State :=
  if s.ready then s.raise .illegalCommand word else s

/-- One check of a command: raise `f` if `bad` (R8). -/
def check (bad : Prop) [Decidable bad] (f : Cause) : Except Cause Unit :=
  if bad then .error f else .ok ()

end Sys2Proof.Machine
end

