-- ==== Sys2Proof/Machine/Gf2.lean ====
section
/-! DEFINITION. The divider: degree and remainder of polynomials over GF(2) (`40_polynomial.md` R120 to R125). -/

namespace Sys2Proof.Machine

/-- The largest `i < n` with `v[i] = 1`, if any. -/
def topBit (v : Poly) : Nat → Option Nat
  | 0 => none
  | i + 1 => if v.getLsbD i then some i else topBit v i

/-- `deg(v)`, a mathematical integer in `-1 .. 15` (R121, R122). -/
def deg (v : Poly) : Int :=
  match topBit v 16 with
  | none => -1
  | some i => i

/-- A divisor that is not the zero polynomial: `gf2mod` is not defined for any other (R123). -/
abbrev Divisor := { b : Poly // b ≠ 0 }

/-- The degree of a divisor; for a generator, `r`, the number of check bits (R25). -/
def Divisor.deg (b : Divisor) : Nat := (Machine.deg b.val).toNat

/-- A value as a divisor, or the fault of a zero one. -/
def divisor (b : Poly) (f : Cause) : Except Cause Divisor :=
  if h : b = 0 then .error f else .ok ⟨b, h⟩

/-- The loop of R123 with a bound on its turns: while the degree of `rem` is not below the divisor's, add the divisor
shifted to align the leading bits. -/
def divisionLoop (b : Poly) : Nat → Poly → Poly
  | 0, rem => rem
  | n + 1, rem =>
    if deg b ≤ deg rem then divisionLoop b n (rem ^^^ (b <<< (deg rem - deg b).toNat)) else rem

/-- `gf2mod(a, b)` (R123). Sixteen turns are always enough (DEDUCED from R124 fact 2, log entry 13). -/
def gf2mod (a : Poly) (b : Divisor) : Poly := divisionLoop b.val 16 a

end Sys2Proof.Machine
end

