-- ==== Sys2Proof/Machine/Operands.lean ====
section
/-! DEFINITION. The operand forms of the commands and the ranges their checks ask for (`30_encoding.md` R93, R94). -/

namespace Sys2Proof.Machine

/-- `imm24` of `SETP` as a threshold: above 65536 raises InvalidProbability (R142). -/
def thresholdOperand (imm24 : BitVec 24) : Except Cause Threshold :=
  if imm24.toNat > Config.probOne then .error .invalidProbability else .ok (imm24.extractLsb' 0 17)

/-- `imm24` of `SETK` as a width: above 16 raises OperandRange (R143). -/
def widthOperand (imm24 : BitVec 24) : Except Cause WordWidth :=
  if imm24.toNat > Config.widthMax then .error .operandRange else .ok (imm24.extractLsb' 0 5)

/-- A word and a width `w` of a transmission: `w` at most 16 and no 1 bit at position `w` or above (R163). -/
def transmissionOperands (c : Poly) (w : BitVec 5) : Except Cause Unit := do
  check (w.toNat > Config.widthMax) .operandRange
  check (c >>> w.toNat ≠ 0) .operandRange

/-- `imm24` of `RUN` as a trial count (R94). -/
def trialCount (imm24 : BitVec 24) : Nat := imm24.toNat

/-- The degree as 16-bit two's complement, the result of `DEG` (R127). -/
def degreeWord (v : Poly) : Poly := BitVec.ofInt 16 (deg v)

end Sys2Proof.Machine
end

