-- ==== Sys2Proof/Machine/Configuration.lean ====
section
/-! DEFINITION. The configuration commands SETG, SETP, SETK (`41_configuration.md` R140 to R144). -/

namespace Sys2Proof.Machine

/-- SETG (R141). -/
def execSetg (rs1 : RegNum) (s : State) : Host.Outcome State Fault Refusal :=
  s.runCommand (.setg rs1) (.ok ()) fun _ => s.setGen (s.readX rs1)

/-- SETP (R142). -/
def execSetp (imm24 : BitVec 24) (s : State) : Host.Outcome State Fault Refusal :=
  s.runCommand (.setp imm24) (thresholdOperand imm24) fun threshold => s.setProb threshold

/-- SETK (R143). -/
def execSetk (imm24 : BitVec 24) (s : State) : Host.Outcome State Fault Refusal :=
  s.runCommand (.setk imm24) (widthOperand imm24) fun width => s.setKw width

end Sys2Proof.Machine
end

