-- ==== Sys2Proof/Machine/Polynomial.lean ====
section
/-! DEFINITION. The polynomial commands LDI, DEG, MOD (`40_polynomial.md` R126 to R129). -/

namespace Sys2Proof.Machine

/-- LDI (R126). -/
def execLdi (rd : RegNum) (imm16 : BitVec 16) (s : State) : Host.Outcome State Fault Refusal :=
  s.runCommand (.ldi rd imm16) (.ok ()) fun _ => s.writeX rd imm16

/-- DEG (R127). -/
def execDeg (rd rs1 : RegNum) (s : State) : Host.Outcome State Fault Refusal :=
  s.runCommand (.deg rd rs1) (.ok ()) fun _ => s.writeX rd (degreeWord (s.readX rs1))

/-- MOD (R128). -/
def execMod (rd rs1 rs2 : RegNum) (s : State) : Host.Outcome State Fault Refusal :=
  s.runCommand (.mod rd rs1 rs2) (divisor (s.readX rs2) .divisionByZero) fun b =>
    s.writeX rd (gf2mod (s.readX rs1) b)

end Sys2Proof.Machine
end

