-- ==== Sys2Proof/Machine/Flags.lean ====
section
/-! DEFINITION. Flags, the syndrome register and the counters (`10_state.md` R28 to R33): what a transmission and a decode record,
the same inside a trial and outside (R190), and `STATUS` as it is read. -/

namespace Sys2Proof.Machine

/-- `STATUS` as 32 bits (R32): `FLIP` is bit 0, `ERRDET` bit 1, `HALT` bit 2, the rest 0. -/
def Status.word (t : Status) : BitVec 32 :=
  (BitVec.ofBool t.halt ++ BitVec.ofBool t.errdet ++ BitVec.ofBool t.flip : BitVec 3).setWidth 32

/-- A transmission overwrites `FLIP` and counts in `SENT` exactly when a bit was flipped (R33, R163). -/
def State.recordTransmission (s : State) (any : Bool) : State :=
  let t := s.setFlip any
  if any then t.setSent (t.sent + 1) else t

/-- A decode writes `SYN`, overwrites `ERRDET`, and counts in `DET` exactly when the syndrome is nonzero (R33, R173). -/
def State.recordDecode (s : State) (detected : Bool) (syndrome : Poly) : State :=
  let t := (s.setSyn syndrome).setErrdet detected
  if detected then t.setDet (t.det + 1) else t

/-- The counter has room for `n` more events, or CounterOverflow (R206). -/
def roomFor (c : Counter) (n : Nat) : Except Cause Unit :=
  check (c.toNat > Config.counterMax - n) .counterOverflow

end Sys2Proof.Machine
end

