-- ==== Sys2Proof/Machine/Channel.lean ====
section
/-! DEFINITION. The bit-flip channel simulator and TX (`43_channel.md` R160 to R166). -/

namespace Sys2Proof.Machine

/-- The flip decision for a draw (R160). -/
def flips (u : Draw) (threshold : Threshold) : Bool := threshold.toNat ≤ u.toNat

/-- `t[i] = not t[i]` (R161). -/
def flipBit (t : Poly) (i : Nat) : Poly := t ^^^ BitVec.twoPow 16 i

/-- `transmit(c, w, T, d)` (R161), the width being the number of draws: the first draw decides bit `w - 1`, the last
bit 0. Gives the transmitted word and whether any bit was flipped. -/
def transmit (threshold : Threshold) : List Draw → Poly → Poly × Bool
  | [], c => (c, false)
  | u :: us, c =>
    if flips u threshold then ((transmit threshold us (flipBit c us.length)).1, true)
    else transmit threshold us c

/-- The checks of TX, all before any draw (R163). -/
def txChecks (s : State) (rs1 : RegNum) (w : BitVec 5) : Except Cause Unit := do
  transmissionOperands (s.readX rs1) w
  roomFor s.sent 1

/-- TX (R163). -/
def execTx (rd rs1 : RegNum) (w : BitVec 5) (s : State) : Host.Outcome State Fault Refusal :=
  s.runCommand (.tx rd rs1 w) (txChecks s rs1 w) fun _ =>
    s.drawing w.toNat fun us t =>
      let sent := transmit s.prob us (s.readX rs1)
      (t.writeX rd sent.1).recordTransmission sent.2

end Sys2Proof.Machine
end

