-- ==== Sys2Proof/Machine/Decoder.lean ====
section
/-! DEFINITION. The syndrome checker and DEC (`44_decoder.md` R170 to R175). -/

namespace Sys2Proof.Machine

/-- `syndrome(g, v)` (R170). -/
def syndrome (g : Divisor) (v : Poly) : Poly := gf2mod v g

/-- The information word of a received word, stripped of its check bits whether or not an error is detected (R171). -/
def informationWord (g : Divisor) (v : Poly) : Poly := v >>> g.deg

/-- The error-detected bit: a comparison of the syndrome's value with 0 (R171). -/
def errorDetected (g : Divisor) (v : Poly) : Bool := syndrome g v != 0

/-- The checks of DEC (R173). -/
def decChecks (s : State) : Except Cause Divisor := do
  let g ← divisor s.gen .divisionByZero
  roomFor s.det 1
  return g

/-- DEC (R173). -/
def execDec (rd rs1 : RegNum) (s : State) : Host.Outcome State Fault Refusal :=
  s.runCommand (.dec rd rs1) (decChecks s) fun g =>
    (s.writeX rd (informationWord g (s.readX rs1))).recordDecode
      (errorDetected g (s.readX rs1)) (syndrome g (s.readX rs1))

end Sys2Proof.Machine
end

