-- ==== Sys2Proof/Machine/Encoder.lean ====
section
/-! DEFINITION. The cyclic-code encoder and ENC (`42_encoder.md` R150 to R153). -/

namespace Sys2Proof.Machine

/-- `encode(g, m)` (R150): the word shifted left by the degree of `g`, with the remainder in the low bits. Its second
precondition, that the shifted word fits, is `encodable`. -/
def codeword (g : Divisor) (m : Poly) : Poly :=
  let padded := m <<< g.deg
  padded ||| gf2mod padded g

/-- The shifted word fits in 16 bits: `m == 0 or deg(m) + deg(g) <= 15` (R150). -/
abbrev encodable (g : Divisor) (m : Poly) : Prop := m = 0 ∨ deg m + deg g.val ≤ 15

/-- The checks of ENC: a generator, and a word that fits (R152). -/
def encChecks (gen m : Poly) : Except Cause Divisor := do
  let g ← divisor gen .configurationError
  check (¬ encodable g m) .operandRange
  return g

/-- ENC (R152). -/
def execEnc (rd rs1 : RegNum) (s : State) : Host.Outcome State Fault Refusal :=
  s.runCommand (.enc rd rs1) (encChecks s.gen (s.readX rs1)) fun g =>
    s.writeX rd (codeword g (s.readX rs1))

end Sys2Proof.Machine
end

