-- ==== Sys2Proof/Machine/Statistics.lean ====
section
/-! DEFINITION. Trials and statistics: TRIAL, RUN, RATE (`45_statistics.md` R180 to R191), and the number of draws each command
consumes (`20_memory.md` R72). -/

namespace Sys2Proof.Machine

/-- The information word of a trial: the top `k` bits of one draw (R180). -/
def infoword (u : Draw) (k : Nat) : Poly := if k = 0 then 0 else u >>> (16 - k)

/-- The width of a trial's codeword, `n = KW + deg(GEN)` (R181). -/
def trialWidth (g : Divisor) (s : State) : Nat := s.kw.toNat + g.deg

/-- What a trial records of its draws: `u` gives the information word, `us` decide the bits of the codeword (R181). -/
def State.recordTrial (s : State) (g : Divisor) (u : Draw) (us : List Draw) : State :=
  let sent := transmit s.prob us (codeword g (infoword u s.kw.toNat))
  (s.recordTransmission sent.2).recordDecode (errorDetected g sent.1) (syndrome g sent.1)

/-- `trial(S, d)` (R181), `g` being `GEN`; none if the random source falls silent before the last of its
`1 + n` draws. -/
def trial (g : Divisor) (s : State) : Option State :=
  match s.source.draw with
  | none => none
  | some (u, d₁) =>
    match d₁.take (trialWidth g s) with
    | none => none
    | some (us, d₂) => some ((s.setSource d₂).recordTrial g u us)

/-- `n` trials, one after another (R186). -/
def trials (g : Divisor) : Nat → State → Option State
  | 0, s => some s
  | n + 1, s =>
    match trial g s with
    | none => none
    | some t => trials g n t

/-- `trialchecks(S, n)` in its order (R183); gives the generator it found nonzero. -/
def trialChecks (s : State) (n : Nat) : Except Cause Divisor := do
  let g ← divisor s.gen .configurationError
  check (n = 0) .operandRange
  check (trialWidth g s > Config.widthMax) .operandRange
  roomFor s.sent n
  roomFor s.det n
  return g

/-- The state after `n` trials, or the stuck state if the random source falls silent before the end (R186, R252). -/
def State.afterTrials (s : State) (n : Nat) (g : Divisor) : State :=
  match trials g n s with
  | some t => t
  | none => s.awaitDraws

/-- TRIAL (R184). -/
def execTrial (s : State) : Host.Outcome State Fault Refusal :=
  s.runCommand .trial (trialChecks s 1) (s.afterTrials 1)

/-- RUN (R186). -/
def execRun (imm24 : BitVec 24) (s : State) : Host.Outcome State Fault Refusal :=
  s.runCommand (.run imm24) (trialChecks s (trialCount imm24)) (s.afterTrials (trialCount imm24))

/-- RATE (R189): a request for the rate `DET / SENT`, which the host reads as two counters (R188). -/
def execRate (s : State) : Host.Outcome State Fault Refusal :=
  s.runCommand .rate (check (s.sent = 0) .divisionByZero) fun _ => s

/-! ### How many draws a command consumes (R72) -/

/-- The draws `n` trials consume, none if a check fails. -/
def trialDraws (s : State) (n : Nat) : Nat :=
  match trialChecks s n with
  | .ok g => n * (1 + trialWidth g s)
  | .error _ => 0

/-- The draws a command consumes if the random source answers them all (R72): none for a command that faults and none
from an engine that takes no command. -/
def drawCount (i : Instr) (s : State) : Nat :=
  if s.ready then
    match i with
    | .tx _ rs1 w =>
      match txChecks s rs1 w with
      | .ok _ => w.toNat
      | .error _ => 0
    | .trial => trialDraws s 1
    | .run imm24 => trialDraws s (trialCount imm24)
    | .ldi _ _ => 0
    | .deg _ _ => 0
    | .mod _ _ _ => 0
    | .setg _ => 0
    | .setp _ => 0
    | .setk _ => 0
    | .enc _ _ => 0
    | .dec _ _ => 0
    | .rate => 0
  else 0

end Sys2Proof.Machine
end

