-- ==== Sys2Proof/Machine/Dispatch.lean ====
section
/-! DEFINITION. One arm per command (the opcode map, `30_encoding.md` R92). -/

namespace Sys2Proof.Machine

def exec (i : Instr) (s : State) : Host.Outcome State Fault Refusal :=
  match i with
  -- the polynomial family
  | .ldi rd imm16 => Sys2Proof.Machine.execLdi rd imm16 s
  | .deg rd rs1 => Sys2Proof.Machine.execDeg rd rs1 s
  | .mod rd rs1 rs2 => Sys2Proof.Machine.execMod rd rs1 rs2 s
  -- configuration
  | .setg rs1 => Sys2Proof.Machine.execSetg rs1 s
  | .setp imm24 => Sys2Proof.Machine.execSetp imm24 s
  | .setk imm24 => Sys2Proof.Machine.execSetk imm24 s
  -- encoder, channel, decoder
  | .enc rd rs1 => Sys2Proof.Machine.execEnc rd rs1 s
  | .tx rd rs1 w => Sys2Proof.Machine.execTx rd rs1 w s
  | .dec rd rs1 => Sys2Proof.Machine.execDec rd rs1 s
  -- statistics
  | .trial => Sys2Proof.Machine.execTrial s
  | .run imm24 => Sys2Proof.Machine.execRun imm24 s
  | .rate => Sys2Proof.Machine.execRate s

end Sys2Proof.Machine
end

