-- ==== Sys2Proof/Machine/Fetch.lean ====
section
/-! DEFINITION. What the host does next, and how a word on the command port is taken (`10_state.md` R39, R40;
`60_exceptions.md` R207, R210; `70_reset_and_hazards.md` R240, R244, R246, R252). -/

namespace Sys2Proof.Machine

/-- What the next host action asks for: a command to execute, or a state that is settled without one. -/
inductive Fetched where
  | command (i : Instr) (s : State)
  | settled (s : State)
  deriving DecidableEq, Repr

/-- The draws a word consumes (R72): none if it is no command. -/
def wordDraws (word : CmdWord) (s : State) : Nat :=
  match decode word with
  | .ok i => drawCount i s
  | .error _ => 0

/-- Takes a word from the command port. While a command waits for a draw `cmd_ready` is 0 and the word is not taken
(R246, R252); a halted engine takes it and ignores it (R39, U13); a word that is no command raises
IllegalCommand (R207). -/
def takeWord (word : CmdWord) (rest : List HostAction) (s : State) : Fetched :=
  match s.activity with
  | .waiting => .settled s
  | .idle =>
    match decode word with
    | .ok i => .command i (s.setHost rest)
    | .error _ => .settled ((s.setHost rest).takeIllegal word)

/-- The next host action: none, and the engine waits for one (R220); a reset (R240); a word; or a word cut short by a
reset, whose draws stay consumed up to the point of the reset (R244). -/
def fetch (s : State) : Fetched :=
  match s.host with
  | [] => .settled s
  | .reset :: rest => .settled (s.resetEngine.setHost rest)
  | .commandCutByReset word n :: rest =>
    .settled (((s.setSource (s.source.skip (min n (wordDraws word s)))).resetEngine).setHost rest)
  | .command word :: rest => takeWord word rest s

/-- The state in which the host presents `word` next to an engine that is not in the middle of a command. -/
def presentWord (s : State) (word : CmdWord) : State :=
  { s with activity := .idle, host := .command word :: s.host }

end Sys2Proof.Machine
end

