-- ==== Sys2Proof/Machine/Step.lean ====
section
/-! DEFINITION. One step of the machine: the next action of the host (`00_scope.md` R11, R13). -/

namespace Sys2Proof.Machine

/-- One step. -/
def step (s : State) : Host.Outcome State Fault Refusal :=
  match fetch s with
  | .command i t => exec i t
  | .settled t => .next t

/-- `s` with the word `w` presented on the command port as the host's next action (log entry 1). -/
def State.withFetchWord (s : State) (nbits w : Nat) : State :=
  presentWord s (BitVec.ofNat 32 (w % 2 ^ nbits))

end Sys2Proof.Machine
end

