-- ==== Sys2Proof/Machine/Assembler.lean ====
section
/-! DEFINITION. The assembler of `30_encoding.md` R99 and R100: a line of text to a written command, a written command to an
`Instr`. It is host software; the engine sees only words. A line is a list of characters. -/

namespace Sys2Proof.Machine

/-! ### From a written command to a command -/

/-- A register operand `x0` to `x7`. -/
def registerField : Operand → Option RegNum
  | .reg n => if n < 8 then some (BitVec.ofNat 3 n) else none
  | .imm _ => none

/-- An immediate that fits a field of `bits` bits. -/
def immediateField (bits : Nat) : Operand → Option (BitVec bits)
  | .imm n => if n < 2 ^ bits then some (BitVec.ofNat bits n) else none
  | .reg _ => none

/-- The command a written command stands for; none for what an assembler rejects (R99). -/
def assemble (t : Written) : Option Instr :=
  match t.mnemonic, t.operands with
  | "LDI", [d, v] => do return .ldi (← registerField d) (← immediateField 16 v)
  | "DEG", [d, a] => do return .deg (← registerField d) (← registerField a)
  | "MOD", [d, a, b] => do return .mod (← registerField d) (← registerField a) (← registerField b)
  | "SETG", [a] => do return .setg (← registerField a)
  | "SETP", [v] => do return .setp (← immediateField 24 v)
  | "SETK", [v] => do return .setk (← immediateField 24 v)
  | "ENC", [d, a] => do return .enc (← registerField d) (← registerField a)
  | "TX", [d, a, v] => do return .tx (← registerField d) (← registerField a) (← immediateField 5 v)
  | "DEC", [d, a] => do return .dec (← registerField d) (← registerField a)
  | "TRIAL", [] => some .trial
  | "RUN", [v] => do return .run (← immediateField 24 v)
  | "RATE", [] => some .rate
  | _, _ => none

/-! ### From a line to a written command -/

/-- The value of a digit in bases up to 16 (letters in either case, log entry 14). -/
def digitValue (ch : Char) : Option Nat :=
  let n := ch.toNat
  if 48 ≤ n ∧ n ≤ 57 then some (n - 48)
  else if 65 ≤ n ∧ n ≤ 70 then some (n - 55)
  else if 97 ≤ n ∧ n ≤ 102 then some (n - 87)
  else none

/-- A digit of the given base. -/
def digitIn (base : Nat) (ch : Char) : Option Nat :=
  match digitValue ch with
  | some d => if d < base then some d else none
  | none => none

/-- The value of the digits read after a number `acc`. -/
def digitsFrom (base : Nat) : Nat → List Char → Option Nat
  | acc, [] => some acc
  | acc, ch :: rest =>
    match digitIn base ch with
    | some d => digitsFrom base (base * acc + d) rest
    | none => none

/-- A number of one digit or more. -/
def numeral (base : Nat) : List Char → Option Nat
  | [] => none
  | ch :: rest => digitsFrom base 0 (ch :: rest)

/-- An operand: `x<n>`, or an immediate in hexadecimal with `0x`, in binary with `0b`, or in decimal (R99). -/
def parseOperand : List Char → Option Operand
  | 'x' :: ds => (numeral 10 ds).map .reg
  | '0' :: 'x' :: ds => (numeral 16 ds).map .imm
  | '0' :: 'b' :: ds => (numeral 2 ds).map .imm
  | ds => (numeral 10 ds).map .imm

/-- The pieces of a line between separators of a comma and a space; `piece` is the piece being read, last character first. -/
def splitOperands : List Char → List Char → List (List Char)
  | piece, [] => [piece.reverse]
  | piece, ',' :: ' ' :: rest => piece.reverse :: splitOperands [] rest
  | piece, ch :: rest => splitOperands (ch :: piece) rest

/-- Every piece read as an operand, or none. -/
def parseOperands : List (List Char) → Option (List Operand)
  | [] => some []
  | p :: ps =>
    match parseOperand p, parseOperands ps with
    | some o, some os => some (o :: os)
    | _, _ => none

/-- A line without its comment (R99) and without the spaces at its end, before a comment or where there is none (the spec says
nothing of such spaces: DESIGN CHOICE, log entry 14). -/
def withoutComment (line : List Char) : List Char :=
  ((line.takeWhile (· != ';')).reverse.dropWhile (· == ' ')).reverse

/-- A line: the mnemonic, a space, the operands (R99). None for a line that is empty or holds only spaces or a comment, as for a
line that is rejected: the spec says nothing of such a line (DESIGN CHOICE, log entry 14). -/
def parseLine (line : List Char) : Option Written :=
  let code := withoutComment line
  let name := code.takeWhile (· != ' ')
  match code.dropWhile (· != ' ') with
  | [] => if name.isEmpty then none else some ⟨String.ofList name, []⟩
  | _ :: rest => (parseOperands (splitOperands [] rest)).map fun os => ⟨String.ofList name, os⟩

/-- The word of a line (R99, R101); none for a line an assembler rejects, and for a blank or comment line (log entry 14). -/
def assembleLine (line : List Char) : Option CmdWord :=
  match parseLine line with
  | some t => (assemble t).map encode
  | none => none

end Sys2Proof.Machine
end

