-- ==== Sys2Proof/Machine/Codec.lean ====
section
/-! DEFINITION. The bit sequences of `20_memory.md` R64 to R67. They are host-side functions that no command calls (R4); the order
they fix is the order in which TX visits bits (R68). -/

namespace Sys2Proof.Machine

/-- `blen(v)`: the natural bit length (R67). -/
def blen (v : Poly) : Nat := if v = 0 then 1 else (deg v).toNat + 1

/-- The bits of `v` at positions `n - 1` down to 0. -/
def bitsFrom (v : Poly) : Nat → List Bool
  | 0 => []
  | n + 1 => v.getLsbD n :: bitsFrom v n

/-- `intToBits(v)`: most significant bit first, as few bits as needed, one bit for 0 (R64). -/
def intToBits (v : Poly) : List Bool := bitsFrom v (blen v)

/-- `polynomialToBits(p)`: degree + 1 coefficients, highest first, or the one bit 0 if the degree is -1 (R65). -/
def polynomialToBits (p : Poly) : List Bool :=
  if deg p < 0 then [false] else bitsFrom p ((deg p).toNat + 1)

/-- A bit sequence read as a big-endian binary number (R66). -/
def bitsToNat (bits : List Bool) : Nat := bits.foldl (fun n b => 2 * n + b.toNat) 0

end Sys2Proof.Machine
end

