-- ==== Sys2Proof/Machine/Ports.lean ====
section
/-! DEFINITION. What the outside sees: the read port and the output levels (`10_state.md` R38 to R42). -/

namespace Sys2Proof.Machine

/-- The register a select names, zero-extended to 32 bits; selects 17 to 31 read as 0 (R38). -/
def State.selected (s : State) (sel : Select) : BitVec 32 :=
  match sel.toNat with
  | 8 => s.gen.setWidth 32
  | 9 => s.prob.setWidth 32
  | 10 => s.kw.setWidth 32
  | 11 => s.sent
  | 12 => s.det
  | 13 => s.syn.setWidth 32
  | 14 => s.status.word
  | 15 => s.err.setWidth 32
  | 16 => s.ecmd
  | n => if n < 8 then (s.readX (BitVec.ofNat 3 n)).setWidth 32 else 0

/-- The read port (R38): it answers an idle or halted engine's register and changes nothing. While a command executes
`rd_data` is unspecified (U4), and the model answers none (log entry 8). -/
def State.readPort (s : State) (sel : Select) : Option (BitVec 32) :=
  match s.activity with
  | .idle => some (s.selected sel)
  | .waiting => none

/-- The output `halted` (R42). -/
def State.halted (s : State) : Bool := s.status.halt

/-- The output `rnd_req` between steps (R41): a request is outstanding exactly in the stuck state of R252. -/
def State.rndReq (s : State) : Bool := s.activity == .waiting

end Sys2Proof.Machine
end

