-- ==== Sys2Proof/Safety.lean ====
section
/-! DEFINITION. What claims about the machine are stated in: the invariant of reachable states (`10_state.md` R46), groups of
registers that a command leaves alone (R45), and a run that went well (`60_exceptions.md` R210). -/

namespace Sys2Proof.Machine

/-- The invariants of R46: a legal probability and width, `HALT` exactly when a fault is recorded, a cause code of R201,
and no word recorded without a fault. -/
abbrev State.Inv (s : State) : Prop :=
  s.prob.toNat ≤ 65536 ∧ s.kw.toNat ≤ 16 ∧ (s.status.halt = true ↔ s.err ≠ 0) ∧ s.err.toNat ≤ 6 ∧
    (s.err = 0 → s.ecmd = 0)

/-- A command waits only for a source that gives no more answers, in an engine that has not faulted (R252). -/
abbrev State.WaitInv (s : State) : Prop :=
  s.activity = .waiting → s.err = 0 ∧ s.source.answers = [] ∧ s.source.silent = true

/-- The general registers are equal. -/
abbrev SameRegs (s t : State) : Prop := ∀ r, t.readX r = s.readX r

/-- The general registers but `rd` are equal. -/
abbrev SameRegsBut (rd : RegNum) (s t : State) : Prop := ∀ r, r ≠ rd → t.readX r = s.readX r

/-- `GEN`, `PROB` and `KW` are equal. -/
abbrev SameConfig (s t : State) : Prop := t.gen = s.gen ∧ t.prob = s.prob ∧ t.kw = s.kw

/-- `SENT` and `DET` are equal. -/
abbrev SameCounters (s t : State) : Prop := t.sent = s.sent ∧ t.det = s.det

/-- `SYN`, `FLIP` and `ERRDET` are equal. -/
abbrev SameFlags (s t : State) : Prop :=
  t.syn = s.syn ∧ t.status.flip = s.status.flip ∧ t.status.errdet = s.status.errdet

/-- The fault record is equal: `ERR`, `ECMD`, `HALT`. -/
abbrev SameFault (s t : State) : Prop :=
  t.err = s.err ∧ t.ecmd = s.ecmd ∧ t.status.halt = s.status.halt

/-- No draw was consumed, no host action taken, and the engine is as busy as before. -/
abbrev SameInputs (s t : State) : Prop :=
  t.source = s.source ∧ t.host = s.host ∧ t.activity = s.activity

/-- The command faults as R208 and R209 say: the code, its word and `HALT` are recorded, and nothing else changes. -/
def FaultsWith (i : Instr) (s : State) (f : Cause) : Prop :=
  ∃ t, exec i s = .next t ∧ t.err = f.code ∧ t.ecmd = encode i ∧ t.status.halt = true ∧
    SameRegs s t ∧ SameConfig s t ∧ SameCounters s t ∧ SameFlags s t ∧ SameInputs s t

/-- The fault a command raises in an engine that is ready, by the table of R212: the first condition that holds. -/
def firstFault : Instr → State → Option Cause
  | .ldi _ _, _ => none
  | .deg _ _, _ => none
  | .mod _ _ rs2, s => if s.readX rs2 = 0 then some .divisionByZero else none
  | .setg _, _ => none
  | .setp imm24, _ => if 0x010000 < imm24.toNat then some .invalidProbability else none
  | .setk imm24, _ => if 16 < imm24.toNat then some .operandRange else none
  | .enc _ rs1, s =>
    if s.gen = 0 then some .configurationError
    else if s.readX rs1 ≠ 0 ∧ 15 < deg (s.readX rs1) + deg s.gen then some .operandRange
    else none
  | .tx _ rs1 w, s =>
    if 16 < w.toNat then some .operandRange
    else if s.readX rs1 >>> w.toNat ≠ 0 then some .operandRange
    else if s.sent = 0xFFFFFFFF then some .counterOverflow
    else none
  | .dec _ _, s =>
    if s.gen = 0 then some .divisionByZero
    else if s.det = 0xFFFFFFFF then some .counterOverflow
    else none
  | .trial, s =>
    if s.gen = 0 then some .configurationError
    else if 16 < (s.kw.toNat : Int) + deg s.gen then some .operandRange
    else if s.sent = 0xFFFFFFFF then some .counterOverflow
    else if s.det = 0xFFFFFFFF then some .counterOverflow
    else none
  | .run imm24, s =>
    if s.gen = 0 then some .configurationError
    else if imm24 = 0 then some .operandRange
    else if 16 < (s.kw.toNat : Int) + deg s.gen then some .operandRange
    else if 0xFFFFFFFF < s.sent.toNat + imm24.toNat then some .counterOverflow
    else if 0xFFFFFFFF < s.det.toNat + imm24.toNat then some .counterOverflow
    else none
  | .rate, s => if s.sent = 0 then some .divisionByZero else none

/-- The draws a command that does not fault consumes (the table of R72). -/
def tableDraws : Instr → State → Nat
  | .tx _ _ w, _ => w.toNat
  | .trial, s => 1 + s.kw.toNat + (deg s.gen).toNat
  | .run imm24, s => imm24.toNat * (1 + s.kw.toNat + (deg s.gen).toNat)
  | .ldi _ _, _ => 0
  | .deg _ _, _ => 0
  | .mod _ _ _, _ => 0
  | .setg _, _ => 0
  | .setp _, _ => 0
  | .setk _, _ => 0
  | .enc _ _, _ => 0
  | .dec _ _, _ => 0
  | .rate, _ => 0

/-- The draws a word consumes if the source answers them (the table of R72): those of its command, and none for a word that is
no command, for a command that faults, and from an engine that takes no command. -/
def wordTableDraws (c : CmdWord) (s : State) : Nat :=
  match decode c with
  | .ok i => if s.ready = true ∧ firstFault i s = none then tableDraws i s else 0
  | .error _ => 0

/-- The general register a command writes (R45). -/
def destination : Instr → Option RegNum
  | .ldi rd _ => some rd
  | .deg rd _ => some rd
  | .mod rd _ _ => some rd
  | .enc rd _ => some rd
  | .tx rd _ _ => some rd
  | .dec rd _ => some rd
  | .setg _ => none
  | .setp _ => none
  | .setk _ => none
  | .trial => none
  | .run _ => none
  | .rate => none

/-- How many transmissions a command performs (R30). -/
def transmissions : Instr → Nat
  | .tx _ _ _ => 1
  | .trial => 1
  | .run imm24 => imm24.toNat
  | .ldi _ _ => 0
  | .deg _ _ => 0
  | .mod _ _ _ => 0
  | .setg _ => 0
  | .setp _ => 0
  | .setk _ => 0
  | .enc _ _ => 0
  | .dec _ _ => 0
  | .rate => 0

/-- How many decodes a command performs (R30). -/
def decodes : Instr → Nat
  | .dec _ _ => 1
  | .trial => 1
  | .run imm24 => imm24.toNat
  | .ldi _ _ => 0
  | .deg _ _ => 0
  | .mod _ _ _ => 0
  | .setg _ => 0
  | .setp _ => 0
  | .setk _ => 0
  | .enc _ _ => 0
  | .tx _ _ _ => 0
  | .rate => 0

/-- Commands executed one after another, as long as each answers a next state. -/
def execAll : List Instr → State → Host.Outcome State Fault Refusal
  | [], s => .next s
  | i :: is, s =>
    match exec i s with
    | .next t => execAll is t
    | .fault r => .fault r
    | .refused r => .refused r

/-- Two states that differ at most in `SYN`, `FLIP` and `ERRDET`. -/
abbrev SameButFlags (s t : State) : Prop :=
  SameRegs s t ∧ SameConfig s t ∧ SameCounters s t ∧ SameFault s t ∧ SameInputs s t

/-- The host's next action is not a reset. -/
def State.nextIsNoReset (s : State) : Bool :=
  match s.host with
  | [] => true
  | .command _ :: _ => true
  | .reset :: _ => false
  | .commandCutByReset _ _ :: _ => false

/-- The random source answers the next `n` draws (R250, R252). -/
def RandomSource.canAnswer (d : RandomSource) (n : Nat) : Bool := !d.silent || n ≤ d.answers.length

/-- A run that went well ends here: all actions taken, no fault, nothing waiting (R14, R210). -/
def State.endedWell (s : State) : Bool := s.host.isEmpty && s.ready && !s.halted

end Sys2Proof.Machine
end

