-- ==== Sys2Proof/Certificates/Slice0/Obligations.lean ====
section
/-! DEFINITION. The statements about the engine that are put to the provers, one per `def Obligations.<Name>`. -/

open Sys2Proof Sys2Proof.Machine

/-! ### Words and commands (`30_encoding.md`) -/

/-- R91, R95, R96: the decoder reads back every command from its word, with every operand. -/
def Obligations.DecodeReadsBackEncoding : Prop :=
  ∀ i : Instr, decode (encode i) = .ok i

/-- R95, R96: no bit of a word that is a command is dropped: the command's own word is that word. -/
def Obligations.EncodeReadsBackDecoding : Prop :=
  ∀ (c : CmdWord) (i : Instr), decode c = .ok i → encode i = c

/-- R96: a word matches exactly one row of R95 and is a command, or matches none and is none. -/
def Obligations.WordMatchesOneRowOrNone : Prop :=
  ∀ c : CmdWord,
    ((rows.filter (fun r => r.hits c)).length = 1 ∧ ∃ i, decode c = .ok i) ∨
    ((rows.filter (fun r => r.hits c)).length = 0 ∧ ∃ e, decode c = .error e)

/-- R97: which words are illegal, and why: an opcode outside 0x01 .. 0x0C, or a must-be-zero bit that is 1. -/
def Obligations.IllegalWordsAreNamed : Prop :=
  ∀ c : CmdWord,
    (decode c = .error .undefinedOpcode ↔ fieldOp c = 0 ∨ 0x0D ≤ fieldOp c) ∧
    (decode c = .error .mbzNotZero ↔
      ∃ r ∈ rows, fieldOp c = fieldOp r.pattern ∧ c &&& r.mask ≠ r.pattern)

/-- R101: the listed command words are the listed commands, and the listed illegal words are none. -/
def Obligations.ListedWordsDecode : Prop :=
  decode 0x0120000B = .ok (.ldi 1 0x000B) ∧ decode 0x01400006 = .ok (.ldi 2 6) ∧
  decode 0x01E0FFFF = .ok (.ldi 7 0xFFFF) ∧ decode 0x05010000 = .ok (.setp 0x010000) ∧ decode 0x02440000 = .ok (.deg 2 1) ∧
  decode 0x03650000 = .ok (.mod 3 1 2) ∧ decode 0x03FF8000 = .ok (.mod 7 7 7) ∧
  decode 0x04040000 = .ok (.setg 1) ∧ decode 0x0500E666 = .ok (.setp 0x00E666) ∧
  decode 0x06000004 = .ok (.setk 4) ∧ decode 0x07680000 = .ok (.enc 3 2) ∧
  decode 0x088C1C00 = .ok (.tx 4 3 7) ∧ decode 0x08004000 = .ok (.tx 0 0 16) ∧
  decode 0x098C0000 = .ok (.dec 4 3) ∧ decode 0x0A000000 = .ok .trial ∧
  decode 0x0B000003 = .ok (.run 3) ∧ decode 0x0C000000 = .ok .rate ∧
  decode 0x00000000 = .error .undefinedOpcode ∧ decode 0x0D000000 = .error .undefinedOpcode ∧
  decode 0x0A000001 = .error .mbzNotZero ∧ decode 0x01210006 = .error .mbzNotZero ∧
  decode 0x02448000 = .error .mbzNotZero ∧ decode 0x04240000 = .error .mbzNotZero ∧
  decode 0x088C1C01 = .error .mbzNotZero ∧ decode 0x098C0400 = .error .mbzNotZero

/-- R99: the assembler accepts exactly the written commands whose operands fit their fields. -/
def Obligations.AssemblerAcceptsExactlyWhatFits : Prop :=
  ∀ t : Written, (assemble t).isSome = t.wellFormed

/-- R99: the written form of a command assembles to that command. -/
def Obligations.WrittenFormAssemblesBack : Prop :=
  ∀ i : Instr, assemble i.written = some i

/-! ### The machine around a command -/

/-- A step runs the command whose word the host presents to an engine that is not in the middle of one; the word is
taken from the host's actions. The list of the host's actions is the model's (log entry 1). -/
def Obligations.StepRunsThePresentedCommand : Prop :=
  ∀ (s : State) (c : CmdWord) (rest : List HostAction) (i : Instr),
    s.activity = .idle → s.host = .command c :: rest → decode c = .ok i →
      step s = exec i (s.setHost rest)

/-- R212: halted first, then IllegalCommand, then the command's own checks in their order, at most one fault. That a halted
engine takes the word off the host's list is the model's choice (log entry 4; R39 and U13 leave it open). -/
def Obligations.FaultPriority : Prop :=
  ∀ (s : State) (c : CmdWord) (rest : List HostAction),
    s.activity = .idle → s.host = .command c :: rest →
      (s.err ≠ 0 → step s = .next (s.setHost rest)) ∧
      (s.err = 0 → ∀ e, decode c = .error e →
        step s = .next ((s.setHost rest).raise .illegalCommand c)) ∧
      (s.err = 0 → ∀ i f, decode c = .ok i → firstFault i s = some f →
        step s = .next ((s.setHost rest).raise f c)) ∧
      (s.err = 0 → ∀ i, decode c = .ok i → firstFault i s = none →
        ∃ t, step s = .next t ∧ SameFault s t)

/-- R208: what fault entry writes, and that it writes nothing else. -/
def Obligations.FaultEntryWritesItsRecordOnly : Prop :=
  ∀ (s : State) (f : Cause) (c : CmdWord),
    (s.raise f c).err = f.code ∧ (s.raise f c).ecmd = c ∧ (s.raise f c).status.halt = true ∧
    (s.raise f c).halted = true ∧ (s.raise f c).ready = false ∧
    SameRegs s (s.raise f c) ∧ SameConfig s (s.raise f c) ∧ SameCounters s (s.raise f c) ∧
    SameFlags s (s.raise f c) ∧ SameInputs s (s.raise f c)

/-- R201: the cause codes. -/
def Obligations.CauseCodes : Prop :=
  Cause.configurationError.code = 1 ∧ Cause.divisionByZero.code = 2 ∧
  Cause.invalidProbability.code = 3 ∧ Cause.operandRange.code = 4 ∧
  Cause.counterOverflow.code = 5 ∧ Cause.illegalCommand.code = 6

/-- R209, which the spec marks as its own inference: a command that ends with a fault recorded has changed only the fault record and consumed no draw. -/
def Obligations.FaultsArePrecise : Prop :=
  ∀ (i : Instr) (s t : State), s.ready = true → exec i s = .next t → t.err ≠ 0 →
    FaultsWith i s .configurationError ∨ FaultsWith i s .divisionByZero ∨
    FaultsWith i s .invalidProbability ∨ FaultsWith i s .operandRange ∨
    FaultsWith i s .counterOverflow

/-- R207: a word that is no command raises IllegalCommand, with the word in `ECMD`. -/
def Obligations.IllegalWordFaults : Prop :=
  ∀ (s : State) (c : CmdWord) (rest : List HostAction) (e : IllegalWord),
    s.ready = true → s.host = .command c :: rest → decode c = .error e →
      ∃ t, step s = .next t ∧ t.err = 6 ∧ t.ecmd = c ∧ t.status.halt = true ∧
        SameRegs s t ∧ SameConfig s t ∧ SameCounters s t ∧ SameFlags s t ∧
        t.source = s.source ∧ t.host = rest ∧ t.activity = s.activity

/-- R210: a word presented to a halted engine has no effect; it answers reads; only a reset leaves the state. That the word is
taken off the host's list is the model's choice (log entry 4; R39 and U13 leave it open). -/
def Obligations.HaltedUntilReset : Prop :=
  (∀ (s : State) (c : CmdWord) (rest : List HostAction),
    s.err ≠ 0 → s.activity = .idle → s.host = .command c :: rest → step s = .next (s.setHost rest)) ∧
  (∀ (s : State) (sel : Select), s.err ≠ 0 → s.activity = .idle → s.readPort sel = some (s.selected sel)) ∧
  (∀ (s t : State), s.err ≠ 0 → s.nextIsNoReset = true → step s = .next t →
    SameRegs s t ∧ SameConfig s t ∧ SameCounters s t ∧ SameFlags s t ∧ SameFault s t ∧ t.source = s.source)

/-- R44: the reset values. -/
def Obligations.ResetValues : Prop :=
  (∀ r, State.reset.readX r = 0) ∧ State.reset.gen = 0 ∧ State.reset.prob = 0 ∧ State.reset.kw = 0 ∧
  State.reset.sent = 0 ∧ State.reset.det = 0 ∧ State.reset.syn = 0 ∧
  State.reset.status.flip = false ∧ State.reset.status.errdet = false ∧ State.reset.status.halt = false ∧
  State.reset.err = 0 ∧ State.reset.ecmd = 0

/-- R240, R245: from every state, also a halted or waiting one, a reset gives every register its reset value and leaves
the engine idle and ready with no draw request outstanding; the random source keeps its position. -/
def Obligations.ResetFromEveryState : Prop :=
  ∀ (s : State) (rest : List HostAction), s.host = .reset :: rest →
    ∃ t, step s = .next t ∧ SameRegs State.reset t ∧ SameConfig State.reset t ∧
      SameCounters State.reset t ∧ SameFlags State.reset t ∧ SameFault State.reset t ∧
      t.ready = true ∧ t.halted = false ∧ t.rndReq = false ∧ t.source = s.source ∧ t.host = rest

/-- R244: a reset during a command leaves no effect of it but the draws it had consumed: the first `k` of the source's
answers. `k` is the number the host action carries, but at most what the table of R72 gives the command, and at most what a
silent source still answers. The host action that says where the reset falls is the model's (log entry 5). -/
def Obligations.ResetDuringCommand : Prop :=
  ∀ (s : State) (c : CmdWord) (n : Nat) (rest : List HostAction),
    s.host = .commandCutByReset c n :: rest →
    ∃ t k, step s = .next t ∧ SameRegs State.reset t ∧ SameConfig State.reset t ∧
      SameCounters State.reset t ∧ SameFlags State.reset t ∧ SameFault State.reset t ∧
      t.activity = .idle ∧ t.host = rest ∧
      k = (if s.source.canAnswer (min n (wordTableDraws c s)) = true then min n (wordTableDraws c s)
        else s.source.answers.length) ∧
      t.source = ⟨s.source.answers.drop k, s.source.used + k, s.source.silent⟩

/-- R46, which the spec marks as its own inference: its invariants hold right after reset; and, by R240, no command is then in
execution, so none waits for a draw. The waiting state that `WaitInv` speaks of is the model's form of the stuck state of R252
(log entry 3). -/
def Obligations.ResetMeetsTheRegisterRules : Prop :=
  State.reset.Inv ∧ State.reset.WaitInv

/-- R46, which the spec marks as its own inference: every step keeps the invariant, from every state that has it. -/
def Obligations.StepKeepsTheRegisterRules : Prop :=
  ∀ s t : State, s.Inv → step s = .next t → t.Inv

/-- R252: a command in execution between steps is one that waits for a source with no answer left; every step keeps
that. The waiting state is the model's form of the stuck state (log entry 3). -/
def Obligations.StepKeepsTheWaitingRule : Prop :=
  ∀ s t : State, s.WaitInv → step s = .next t → t.WaitInv

/-- Every step of the machine answers a next state. That the model never stops is its own choice: each error of the spec
(R208, R210) and the stuck state (R252) is a next state (log entry 10), and an engine with no pending host action steps to itself
(log entry 15). The statement says only that no arm refuses or faults. -/
def Obligations.EveryStepAnswersANextState : Prop :=
  ∀ s : State, ∃ t, step s = .next t

/-- R252: a command that asks a silent source for more draws than it answers gets stuck: not ready, not halted, no fault,
a request outstanding; and only a reset leaves the stuck state. -/
def Obligations.SilentSourceIsStuckUntilReset : Prop :=
  (∀ (i : Instr) (s : State), s.ready = true → s.status.halt = false → firstFault i s = none →
    s.source.canAnswer (tableDraws i s) = false →
      ∃ t, exec i s = .next t ∧ t.rndReq = true ∧ t.ready = false ∧ t.halted = false ∧ t.err = 0) ∧
  (∀ s : State, s.activity = .waiting → s.nextIsNoReset = true → step s = .next s) ∧
  (∀ (s : State) (sel : Select), s.activity = .waiting → s.readPort sel = none)

/-! ### Reads -/

/-- R38: what every select of the read port answers. -/
def Obligations.ReadPortSelects : Prop :=
  ∀ s : State, s.activity = .idle →
    (∀ r : RegNum, s.readPort (r.setWidth 5) = some ((s.readX r).setWidth 32)) ∧
    s.readPort 8 = some (s.gen.setWidth 32) ∧ s.readPort 9 = some (s.prob.setWidth 32) ∧
    s.readPort 10 = some (s.kw.setWidth 32) ∧ s.readPort 11 = some s.sent ∧
    s.readPort 12 = some s.det ∧ s.readPort 13 = some (s.syn.setWidth 32) ∧
    s.readPort 14 = some s.status.word ∧ s.readPort 15 = some (s.err.setWidth 32) ∧
    s.readPort 16 = some s.ecmd ∧
    (∀ sel : Select, 17 ≤ sel.toNat → s.readPort sel = some 0)

/-- R32: the bits of `STATUS` as it is read. -/
def Obligations.StatusBits : Prop :=
  ∀ t : Status, t.word.getLsbD 0 = t.flip ∧ t.word.getLsbD 1 = t.errdet ∧ t.word.getLsbD 2 = t.halt ∧
    ∀ i, 3 ≤ i → t.word.getLsbD i = false

/-! ### Polynomials (`40_polynomial.md`) -/

/-- R121: the degree is the highest exponent with coefficient 1, or -1 for the zero polynomial. -/
def Obligations.DegreeIsHighestExponent : Prop :=
  deg 0 = -1 ∧
  ∀ v : Poly, v ≠ 0 → ∃ i : Nat, i < 16 ∧ deg v = i ∧ v.getLsbD i = true ∧
    ∀ j, i < j → v.getLsbD j = false

/-- R123: the remainder satisfies the equation of the unbounded loop, and its degree is below the divisor's. The divisor is
nonzero by its type. -/
def Obligations.RemainderFollowsTheLoop : Prop :=
  ∀ (a : Poly) (b : Divisor),
    (gf2mod a b = if deg b.val ≤ deg a
      then gf2mod (a ^^^ (b.val <<< (deg a - deg b.val).toNat)) b else a) ∧
    deg (gf2mod a b) < deg b.val

/-- Facts 4 and 8 of R124, which the spec marks as its own inference: a dividend of lower degree is its own remainder, and
so taking the remainder twice changes nothing. -/
def Obligations.RemainderIsItsOwnRemainder : Prop :=
  ∀ (a : Poly) (b : Divisor),
    (deg a < deg b.val → gf2mod a b = a) ∧ gf2mod (gf2mod a b) b = gf2mod a b

/-- Facts 5 and 6 of R124, which the spec marks as its own inference: dividend and remainder differ by a sum of shifted divisors none of which loses a bit, and a shifted
divisor leaves no remainder. -/
def Obligations.RemainderDiffersByMultiple : Prop :=
  ∀ (a : Poly) (b : Divisor),
    (∃ shifts : List Nat, (∀ k ∈ shifts, k + b.deg ≤ 15) ∧
      a ^^^ gf2mod a b = shifts.foldl (fun p k => p ^^^ (b.val <<< k)) 0) ∧
    (∀ k : Nat, b.deg + k ≤ 15 → gf2mod (b.val <<< k) b = 0)

/-- Fact 7 of R124, which the spec marks as its own inference: the remainder of a sum is the sum of the remainders. -/
def Obligations.RemainderIsLinear : Prop :=
  ∀ (a c : Poly) (b : Divisor), gf2mod (a ^^^ c) b = gf2mod a b ^^^ gf2mod c b

/-- R126: LDI. -/
def Obligations.LdiLoadsImmediate : Prop :=
  ∀ (rd : RegNum) (imm16 : BitVec 16),
    (decode (0x01#8 ++ rd ++ 0#5 ++ imm16) = .ok (.ldi rd imm16)) ∧
    (∀ c : CmdWord, fieldOp c = 0x01 → c.extractLsb' 16 5 ≠ 0 → decode c = .error .mbzNotZero) ∧
    (∀ s : State, s.ready = true →
      ∃ t, exec (.ldi rd imm16) s = .next t ∧ t.readX rd = imm16 ∧ SameRegsBut rd s t ∧
        SameConfig s t ∧ SameCounters s t ∧ SameFlags s t ∧ SameFault s t ∧ SameInputs s t)

/-- R127: DEG, with its corner cases. -/
def Obligations.DegWritesDegree : Prop :=
  ∀ (rd rs1 : RegNum),
    (decode (0x02#8 ++ rd ++ rs1 ++ 0#18) = .ok (.deg rd rs1)) ∧
    (∀ s : State, s.ready = true →
      ∃ t, exec (.deg rd rs1) s = .next t ∧ t.readX rd = BitVec.ofInt 16 (deg (s.readX rs1)) ∧
        (s.readX rs1 = 0 → t.readX rd = 0xFFFF) ∧ (s.readX rs1 = 1 → t.readX rd = 0) ∧
        (0x8000 ≤ (s.readX rs1).toNat → t.readX rd = 0x000F) ∧
        ((t.readX rd).getLsbD 15 = true → t.readX rd = 0xFFFF) ∧
        SameRegsBut rd s t ∧
        SameConfig s t ∧ SameCounters s t ∧ SameFlags s t ∧ SameFault s t ∧ SameInputs s t)

/-- R128: MOD, and its fault. -/
def Obligations.ModWritesRemainder : Prop :=
  ∀ (rd rs1 rs2 : RegNum),
    (decode (0x03#8 ++ rd ++ rs1 ++ rs2 ++ 0#15) = .ok (.mod rd rs1 rs2)) ∧
    (∀ (s : State) (hb : s.readX rs2 ≠ 0), s.ready = true →
      ∃ t, exec (.mod rd rs1 rs2) s = .next t ∧ t.readX rd = gf2mod (s.readX rs1) ⟨s.readX rs2, hb⟩ ∧
        SameRegsBut rd s t ∧
        SameConfig s t ∧ SameCounters s t ∧ SameFlags s t ∧ SameFault s t ∧ SameInputs s t) ∧
    (∀ s : State, s.ready = true → s.readX rs2 = 0 → FaultsWith (.mod rd rs1 rs2) s .divisionByZero)

/-! ### Configuration (`41_configuration.md`) -/

/-- R141: SETG, for every value including 0. -/
def Obligations.SetgSetsGenerator : Prop :=
  ∀ rs1 : RegNum,
    (decode (0x04#8 ++ 0#3 ++ rs1 ++ 0#18) = .ok (.setg rs1)) ∧
    (∀ s : State, s.ready = true →
      ∃ t, exec (.setg rs1) s = .next t ∧ t.gen = s.readX rs1 ∧ t.prob = s.prob ∧ t.kw = s.kw ∧
        SameRegs s t ∧ SameCounters s t ∧ SameFlags s t ∧ SameFault s t ∧ SameInputs s t)

/-- R142: SETP, and its fault, which no other command raises. -/
def Obligations.SetpSetsThreshold : Prop :=
  ∀ imm24 : BitVec 24,
    (decode (0x05#8 ++ imm24) = .ok (.setp imm24)) ∧
    (∀ s : State, s.ready = true → imm24.toNat ≤ 0x010000 →
      ∃ t, exec (.setp imm24) s = .next t ∧ t.prob.toNat = imm24.toNat ∧ t.gen = s.gen ∧ t.kw = s.kw ∧
        SameRegs s t ∧ SameCounters s t ∧ SameFlags s t ∧ SameFault s t ∧ SameInputs s t) ∧
    (∀ s : State, s.ready = true → 0x010000 < imm24.toNat →
      FaultsWith (.setp imm24) s .invalidProbability) ∧
    (∀ (i : Instr) (s : State), s.ready = true → FaultsWith i s .invalidProbability → ∃ v, i = .setp v)

/-- R143: SETK, and its fault. -/
def Obligations.SetkSetsWidth : Prop :=
  ∀ imm24 : BitVec 24,
    (decode (0x06#8 ++ imm24) = .ok (.setk imm24)) ∧
    (∀ s : State, s.ready = true → imm24.toNat ≤ 16 →
      ∃ t, exec (.setk imm24) s = .next t ∧ t.kw.toNat = imm24.toNat ∧ t.gen = s.gen ∧ t.prob = s.prob ∧
        SameRegs s t ∧ SameCounters s t ∧ SameFlags s t ∧ SameFault s t ∧ SameInputs s t) ∧
    (∀ s : State, s.ready = true → 16 < imm24.toNat → FaultsWith (.setk imm24) s .operandRange)

/-! ### The encoder (`42_encoder.md`) -/

/-- R152: ENC, with its two faults in their order. -/
def Obligations.EncWritesCodeword : Prop :=
  ∀ (rd rs1 : RegNum),
    (decode (0x07#8 ++ rd ++ rs1 ++ 0#18) = .ok (.enc rd rs1)) ∧
    (∀ (s : State) (hg : s.gen ≠ 0), s.ready = true →
      (s.readX rs1 = 0 ∨ deg (s.readX rs1) + deg s.gen ≤ 15) →
      ∃ t, exec (.enc rd rs1) s = .next t ∧
        t.readX rd = (s.readX rs1 <<< (deg s.gen).toNat ||| gf2mod (s.readX rs1 <<< (deg s.gen).toNat) ⟨s.gen, hg⟩) ∧
        SameRegsBut rd s t ∧
        SameConfig s t ∧ SameCounters s t ∧ SameFlags s t ∧ SameFault s t ∧ SameInputs s t) ∧
    (∀ s : State, s.ready = true → s.gen = 0 → FaultsWith (.enc rd rs1) s .configurationError) ∧
    (∀ s : State, s.ready = true → s.gen ≠ 0 → s.readX rs1 ≠ 0 → 15 < deg (s.readX rs1) + deg s.gen →
      FaultsWith (.enc rd rs1) s .operandRange)

/-- Facts 1, 2, 4, 6 and 7 of R151, which the spec marks as its own inference: where a codeword holds its information word and its check bits, and how long it is. -/
def Obligations.CodewordLayout : Prop :=
  ∀ (g : Divisor) (m : Poly), (m = 0 ∨ deg m + deg g.val ≤ 15) →
    codeword g m >>> g.deg = m ∧
    (∀ i, i < g.deg → (codeword g m).getLsbD i = (gf2mod (m <<< g.deg) g).getLsbD i) ∧
    codeword g 0 = 0 ∧ (m ≠ 0 → deg (codeword g m) = deg m + deg g.val) ∧
    (g.val = 1 → codeword g m = m)

/-- Facts 3 and 5 of R151, which the spec marks as its own inference: every codeword leaves no remainder, and the code is linear. -/
def Obligations.CodewordsLeaveNoRemainder : Prop :=
  ∀ (g : Divisor) (m m' : Poly), (m = 0 ∨ deg m + deg g.val ≤ 15) → (m' = 0 ∨ deg m' + deg g.val ≤ 15) →
    gf2mod (codeword g m) g = 0 ∧ codeword g (m ^^^ m') = codeword g m ^^^ codeword g m'

/-! ### The channel (`43_channel.md`) -/

/-- Facts 1 and 2 of R164, which the spec marks as its own inference, with the flip decision of R160 written out: the first draw
decides bit `w - 1`, a bit is flipped exactly when its draw is at or above the threshold, and any-flip says whether the word changed. -/
def Obligations.ErrorPatternOfTransmission : Prop :=
  ∀ (threshold : Threshold) (us : List Draw) (c : Poly), us.length ≤ 16 →
    (∀ (i : Nat) (h : i < us.length),
      ((transmit threshold us c).1 ^^^ c).getLsbD i =
        decide (threshold.toNat ≤ (us[us.length - 1 - i]'(by omega)).toNat)) ∧
    (∀ i, us.length ≤ i → ((transmit threshold us c).1 ^^^ c).getLsbD i = false) ∧
    ((transmit threshold us c).2 = true ↔ (transmit threshold us c).1 ≠ c)

/-- Facts 3 and 4 of R164, which the spec marks as its own inference: probability 1 flips no bit, probability 0 flips every bit of the width. -/
def Obligations.CertainChannels : Prop :=
  ∀ (us : List Draw) (c : Poly), us.length ≤ 16 →
    transmit 0x10000 us c = (c, false) ∧
    transmit 0 us c = (c ^^^ BitVec.ofNat 16 (2 ^ us.length - 1), decide (1 ≤ us.length))

/-- R163: TX, for a source that answers its draws `us` and goes on as `d`, with its three faults in their order. -/
def Obligations.TxSendsWord : Prop :=
  ∀ (rd rs1 : RegNum) (w : BitVec 5),
    (decode (0x08#8 ++ rd ++ rs1 ++ 0#3 ++ w ++ 0#10) = .ok (.tx rd rs1 w)) ∧
    (∀ (s : State) (us : List Draw) (d : RandomSource), s.ready = true → w.toNat ≤ 16 →
      s.readX rs1 >>> w.toNat = 0 → s.sent ≠ 0xFFFFFFFF → s.source.take w.toNat = some (us, d) →
      ∃ t, exec (.tx rd rs1 w) s = .next t ∧
        t.readX rd = (transmit s.prob us (s.readX rs1)).1 ∧
        t.status.flip = (transmit s.prob us (s.readX rs1)).2 ∧
        t.sent = (if (transmit s.prob us (s.readX rs1)).2 then s.sent + 1 else s.sent) ∧
        t.source = d ∧
        SameRegsBut rd s t ∧ SameConfig s t ∧ t.det = s.det ∧ t.syn = s.syn ∧
        t.status.errdet = s.status.errdet ∧ SameFault s t ∧ t.host = s.host ∧ t.activity = .idle) ∧
    (∀ s : State, s.ready = true → 16 < w.toNat → FaultsWith (.tx rd rs1 w) s .operandRange) ∧
    (∀ s : State, s.ready = true → w.toNat ≤ 16 → s.readX rs1 >>> w.toNat ≠ 0 →
      FaultsWith (.tx rd rs1 w) s .operandRange) ∧
    (∀ s : State, s.ready = true → w.toNat ≤ 16 → s.readX rs1 >>> w.toNat = 0 → s.sent = 0xFFFFFFFF →
      FaultsWith (.tx rd rs1 w) s .counterOverflow)

/-- R72: recorded answers are handed out in order, one per draw, and the source is left after them. The recorded list is
the model's form of the draw stream (log entry 2). -/
def Obligations.DrawsComeInOrder : Prop :=
  ∀ (us rest : List Draw) (n : Nat) (silent : Bool),
    RandomSource.take us.length ⟨us ++ rest, n, silent⟩ = some (us, ⟨rest, n + us.length, silent⟩)

/-- R72, R250: a command that does not fault, with a source that answers its draws, completes and consumes exactly the
number of draws the table gives it; a command that faults, or that meets an engine that is not ready, consumes none. -/
def Obligations.DrawsPerCommand : Prop :=
  (∀ (i : Instr) (s : State), s.ready = true → firstFault i s = none →
    s.source.canAnswer (tableDraws i s) = true →
      ∃ t, exec i s = .next t ∧ t.activity = .idle ∧ SameFault s t ∧ t.host = s.host ∧
        t.source.used = s.source.used + tableDraws i s ∧ t.source.silent = s.source.silent ∧
        t.source.answers = s.source.answers.drop (tableDraws i s)) ∧
  (∀ (i : Instr) (s t : State), (s.ready = false ∨ (firstFault i s).isSome = true) →
    exec i s = .next t → t.source = s.source)

/-- Fact 5 of R164 and fact 5 of R187, which the spec marks as its own inference: the draws after those a command consumes
have no part in what it does; they are still there when it has completed. -/
def Obligations.LaterDrawsHaveNoPart : Prop :=
  ∀ (i : Instr) (s t : State) (more : List Draw), s.ready = true → firstFault i s = none →
    tableDraws i s ≤ s.source.answers.length → exec i s = .next t →
      exec i (s.setSource { s.source with answers := s.source.answers ++ more }) =
        .next (t.setSource { t.source with answers := t.source.answers ++ more })

/-! ### The decoder (`44_decoder.md`) -/

/-- R173: DEC, with its two faults in their order. -/
def Obligations.DecChecksAndStrips : Prop :=
  ∀ (rd rs1 : RegNum),
    (decode (0x09#8 ++ rd ++ rs1 ++ 0#18) = .ok (.dec rd rs1)) ∧
    (∀ (s : State) (hg : s.gen ≠ 0), s.ready = true → s.det ≠ 0xFFFFFFFF →
      ∃ t, exec (.dec rd rs1) s = .next t ∧
        t.readX rd = s.readX rs1 >>> (deg s.gen).toNat ∧
        t.syn = gf2mod (s.readX rs1) ⟨s.gen, hg⟩ ∧
        (t.status.errdet = true ↔ gf2mod (s.readX rs1) ⟨s.gen, hg⟩ ≠ 0) ∧
        t.det = (if gf2mod (s.readX rs1) ⟨s.gen, hg⟩ ≠ 0 then s.det + 1 else s.det) ∧
        SameRegsBut rd s t ∧ SameConfig s t ∧ t.sent = s.sent ∧
        t.status.flip = s.status.flip ∧ SameFault s t ∧ SameInputs s t) ∧
    (∀ s : State, s.ready = true → s.gen = 0 → FaultsWith (.dec rd rs1) s .divisionByZero) ∧
    (∀ s : State, s.ready = true → s.gen ≠ 0 → s.det = 0xFFFFFFFF →
      FaultsWith (.dec rd rs1) s .counterOverflow)

/-- Facts 1 and 2 of R172, which the spec marks as its own inference: without noise the word comes back and nothing is detected; with an error pattern the syndrome
is the pattern's remainder. -/
def Obligations.SyndromeSeesOnlyTheErrorPattern : Prop :=
  ∀ (g : Divisor) (m e : Poly), (m = 0 ∨ deg m + deg g.val ≤ 15) →
    informationWord g (codeword g m) = m ∧ errorDetected g (codeword g m) = false ∧
    syndrome g (codeword g m ^^^ e) = gf2mod e g

/-- Fact 4 of R172, which the spec marks as its own inference: a generator with constant term 1 and at least two terms detects every single-bit error. -/
def Obligations.SingleBitErrorsAreDetected : Prop :=
  ∀ (g : Divisor) (m : Poly) (i : Nat), (m = 0 ∨ deg m + deg g.val ≤ 15) → i < 16 →
    g.val.getLsbD 0 = true → g.val ≠ 1 →
      errorDetected g (codeword g m ^^^ BitVec.twoPow 16 i) = true

/-! ### Trials and statistics (`45_statistics.md`) -/

/-- R180: the information word of a trial is the top `k` bits of its draw. -/
def Obligations.InfowordIsTopBits : Prop :=
  ∀ (u : Draw) (k : Nat), k ≤ 16 →
    (infoword u k).toNat = u.toNat / 2 ^ (16 - k) ∧ (infoword u k).toNat < 2 ^ k

/-- R181, R184: TRIAL, for a source that answers `u` and then `us`, with its faults in the order of R183. -/
def Obligations.TrialRunsOneTrial : Prop :=
  (decode (0x0A#8 ++ 0#24) = .ok .trial) ∧
  (∀ (s : State) (hg : s.gen ≠ 0) (u : Draw) (us : List Draw) (d : RandomSource), s.ready = true →
    (s.kw.toNat : Int) + deg s.gen ≤ 16 → s.sent ≠ 0xFFFFFFFF → s.det ≠ 0xFFFFFFFF →
    s.source.take (1 + (s.kw.toNat + (deg s.gen).toNat)) = some (u :: us, d) →
    ∃ t received any,
      transmit s.prob us (codeword ⟨s.gen, hg⟩ (infoword u s.kw.toNat)) = (received, any) ∧
      exec .trial s = .next t ∧
      t.status.flip = any ∧ t.sent = (if any then s.sent + 1 else s.sent) ∧
      t.syn = gf2mod received ⟨s.gen, hg⟩ ∧
      (t.status.errdet = true ↔ gf2mod received ⟨s.gen, hg⟩ ≠ 0) ∧
      t.det = (if gf2mod received ⟨s.gen, hg⟩ ≠ 0 then s.det + 1 else s.det) ∧
      t.source = d ∧
      SameRegs s t ∧ SameConfig s t ∧ SameFault s t ∧ t.host = s.host ∧ t.activity = .idle) ∧
  (∀ s : State, s.ready = true → s.gen = 0 → FaultsWith .trial s .configurationError) ∧
  (∀ s : State, s.ready = true → s.gen ≠ 0 → 16 < (s.kw.toNat : Int) + deg s.gen →
    FaultsWith .trial s .operandRange) ∧
  (∀ s : State, s.ready = true → s.gen ≠ 0 → (s.kw.toNat : Int) + deg s.gen ≤ 16 →
    (s.sent = 0xFFFFFFFF ∨ s.det = 0xFFFFFFFF) → FaultsWith .trial s .counterOverflow)

/-- R186, and fact 1 of R187, which the spec marks as its own inference: RUN with a count its checks accept and a source that answers all its draws completes, in the state that
as many TRIAL commands leave; its faults, in the order of R183, leave everything as it was. -/
def Obligations.RunRunsItsTrials : Prop :=
  ∀ imm24 : BitVec 24,
    (decode (0x0B#8 ++ imm24) = .ok (.run imm24)) ∧
    (∀ s : State, s.ready = true → s.gen ≠ 0 → imm24 ≠ 0 → (s.kw.toNat : Int) + deg s.gen ≤ 16 →
      s.sent.toNat + imm24.toNat ≤ 0xFFFFFFFF → s.det.toNat + imm24.toNat ≤ 0xFFFFFFFF →
      s.source.canAnswer (imm24.toNat * (1 + s.kw.toNat + (deg s.gen).toNat)) = true →
      ∃ t, exec (.run imm24) s = .next t ∧
        execAll (List.replicate imm24.toNat .trial) s = .next t ∧
        t.source.used = s.source.used + imm24.toNat * (1 + s.kw.toNat + (deg s.gen).toNat) ∧
        SameRegs s t ∧ SameConfig s t ∧ SameFault s t ∧ t.host = s.host ∧ t.activity = .idle) ∧
    (∀ s : State, s.ready = true → s.gen = 0 → FaultsWith (.run imm24) s .configurationError) ∧
    (∀ s : State, s.ready = true → s.gen ≠ 0 → (imm24 = 0 ∨ 16 < (s.kw.toNat : Int) + deg s.gen) →
      FaultsWith (.run imm24) s .operandRange) ∧
    (∀ s : State, s.ready = true → s.gen ≠ 0 → imm24 ≠ 0 → (s.kw.toNat : Int) + deg s.gen ≤ 16 →
      (0xFFFFFFFF < s.sent.toNat + imm24.toNat ∨ 0xFFFFFFFF < s.det.toNat + imm24.toNat) →
      FaultsWith (.run imm24) s .counterOverflow)

/-- Fact 1 of R187, which the spec marks as its own inference: two runs in a row are one run of both counts, when the checks of the long run pass and the source
answers all its draws. -/
def Obligations.ConsecutiveRunsAdd : Prop :=
  ∀ (s : State) (a b : BitVec 24), s.ready = true → a ≠ 0 → b ≠ 0 → a.toNat + b.toNat < 2 ^ 24 →
    firstFault (.run (a + b)) s = none → s.source.canAnswer (tableDraws (.run (a + b)) s) = true →
      ∃ t, exec (.run (a + b)) s = .next t ∧ execAll [.run a, .run b] s = .next t

/-- Fact 2 of R187, which the spec marks as its own inference: trials detect no more errors than were sent, so TRIAL and RUN keep
`DET` at most `SENT`; and so does every step but one that runs a command that transmits and decodes unequally often, which are TX
and DEC. -/
def Obligations.TrialsKeepDetAtMostSent : Prop :=
  ∀ (s t : State) (imm24 : BitVec 24), s.det.toNat ≤ s.sent.toNat →
    (exec .trial s = .next t → t.det.toNat ≤ t.sent.toNat) ∧
    (exec (.run imm24) s = .next t → t.det.toNat ≤ t.sent.toNat) ∧
    ((∀ c rest i, s.host = .command c :: rest → decode c = .ok i → transmissions i = decodes i) →
      step s = .next t → t.det.toNat ≤ t.sent.toNat)

/-- Fact 3 of R187, which the spec marks as its own inference: at probability 1 a run leaves both counters as they were. -/
def Obligations.NoiselessRunsCountNothing : Prop :=
  ∀ (s t : State) (imm24 : BitVec 24), s.prob = 0x10000 → exec (.run imm24) s = .next t → SameCounters s t

/-- R185, which the spec marks as its own inference: TRIAL leaves the same counters, flags and syndrome as the single commands LDI, ENC, TX, DEC with the same draws,
when the host has taken the first draw to compute the information word. -/
def Obligations.TrialAgreesWithSingleCommands : Prop :=
  ∀ (s : State) (xa xb xc xd : RegNum) (u : Draw) (d : RandomSource),
    s.ready = true → firstFault .trial s = none → s.source.canAnswer (tableDraws .trial s) = true →
    s.source.draw = some (u, d) →
      ∃ t t', exec .trial s = .next t ∧
        execAll [.ldi xa (infoword u s.kw.toNat), .enc xb xa,
          .tx xc xb (BitVec.ofNat 5 (s.kw.toNat + (deg s.gen).toNat)), .dec xd xc] (s.setSource d) = .next t' ∧
        t'.sent = t.sent ∧ t'.det = t.det ∧ t'.syn = t.syn ∧ t'.status = t.status ∧ t'.source = t.source

/-- R189: RATE, and its fault. -/
def Obligations.RateAsksForErrorsSent : Prop :=
  (decode (0x0C#8 ++ 0#24) = .ok .rate) ∧
  (∀ s : State, s.ready = true → s.sent ≠ 0 → exec .rate s = .next s) ∧
  (∀ s : State, s.ready = true → s.sent = 0 → FaultsWith .rate s .divisionByZero)

/-! ### Rules of the whole machine -/

/-- R45, which the spec marks as its own inference: the write matrix: each register is written only by the commands that the matrix names for it. -/
def Obligations.WriteMatrix : Prop :=
  ∀ (i : Instr) (s t : State), exec i s = .next t →
    (∀ r, destination i ≠ some r → t.readX r = s.readX r) ∧
    ((∀ rs1, i ≠ .setg rs1) → t.gen = s.gen) ∧
    ((∀ imm24, i ≠ .setp imm24) → t.prob = s.prob) ∧
    ((∀ imm24, i ≠ .setk imm24) → t.kw = s.kw) ∧
    (transmissions i = 0 → t.sent = s.sent ∧ t.status.flip = s.status.flip) ∧
    (decodes i = 0 → t.det = s.det ∧ t.syn = s.syn ∧ t.status.errdet = s.status.errdet) ∧
    (t.err ≠ s.err → SameRegs s t ∧ SameConfig s t ∧ SameCounters s t ∧ SameFlags s t ∧ SameInputs s t) ∧
    t.host = s.host

/-- R30: no command takes a counter back, and none adds more than the transmissions or decodes it performs. -/
def Obligations.CountersOnlyGrow : Prop :=
  ∀ (i : Instr) (s t : State), exec i s = .next t →
    s.sent.toNat ≤ t.sent.toNat ∧ t.sent.toNat ≤ s.sent.toNat + transmissions i ∧
    s.det.toNat ≤ t.det.toNat ∧ t.det.toNat ≤ s.det.toNat + decodes i

/-- R32, R33, R175: no command reads `SYN`, `FLIP` or `ERRDET`: two states that differ only there run every command to states
that differ at most there, and a command that completes leaves those of the three that it writes equal in both. -/
def Obligations.NoCommandReadsFlags : Prop :=
  ∀ (i : Instr) (s s' t : State), SameButFlags s s' → exec i s = .next t →
    ∃ t', exec i s' = .next t' ∧ SameButFlags t t' ∧
      (s.ready = true → firstFault i s = none → t.activity = .idle →
        (0 < transmissions i → t'.status.flip = t.status.flip) ∧
        (0 < decodes i → t'.syn = t.syn ∧ t'.status.errdet = t.status.errdet))

/-! ### Bit sequences (`20_memory.md`) -/

/-- R64 to R66: the sequence of a value is as long as its natural length, the two renderings agree, and reading it as a
big-endian number gives the value back. -/
def Obligations.BitSequencesRoundTrip : Prop :=
  ∀ v : Poly, (intToBits v).length = blen v ∧ polynomialToBits v = intToBits v ∧
    bitsToNat (intToBits v) = v.toNat
end

