-- ==== Sys2Proof/Laws/Gf2.lean ====
section
/-! SUPPORT. The degree, by the bits of a value: the one lemma about `topBit` and `deg` that later proofs cite. -/

namespace Sys2Proof.Machine

theorem topBit_eq_none (v : Poly) (n : Nat) : topBit v n = none ↔ ∀ j < n, v.getLsbD j = false := by
  induction n with
  | zero => simp [topBit]
  | succ n ih =>
    unfold topBit
    cases h : v.getLsbD n with
    | true => simp only [if_true, reduceCtorEq, false_iff]; exact fun hj => by simp [hj n] at h
    | false =>
      simp only [Bool.false_eq_true, if_false, ih]
      refine ⟨fun hj j hlt => ?_, fun hj j hlt => hj j (by omega)⟩
      rcases Nat.lt_succ_iff_lt_or_eq.1 hlt with h' | rfl
      · exact hj j h'
      · exact h

theorem topBit_eq_some (v : Poly) (n i : Nat) :
    topBit v n = some i ↔ i < n ∧ v.getLsbD i = true ∧ ∀ j, i < j → j < n → v.getLsbD j = false := by
  induction n with
  | zero => simp [topBit]
  | succ n ih =>
    unfold topBit
    cases h : v.getLsbD n with
    | true =>
      simp only [if_true, Option.some.injEq]
      constructor
      · rintro rfl; exact ⟨by omega, h, fun j _ _ => by omega⟩
      · rintro ⟨h1, -, h3⟩
        by_contra hne
        simp [h3 n (by omega) (by omega)] at h
    | false =>
      simp only [Bool.false_eq_true, if_false, ih]
      constructor
      · rintro ⟨h1, h2, h3⟩
        refine ⟨by omega, h2, fun j hij hj => ?_⟩
        rcases Nat.lt_succ_iff_lt_or_eq.1 hj with h' | rfl
        · exact h3 j hij h'
        · exact h
      · rintro ⟨h1, h2, h3⟩
        have hi : i ≠ n := by rintro rfl; simp [h2] at h
        exact ⟨by omega, h2, fun j hij hj => h3 j hij (by omega)⟩

/-- The degree is below `n` exactly when no coefficient from `n` on is 1. -/
theorem deg_lt_iff (v : Poly) (n : Nat) : deg v < n ↔ ∀ j, n ≤ j → v.getLsbD j = false := by
  unfold deg
  cases h : topBit v 16 with
  | none =>
    have h0 := (topBit_eq_none v 16).1 h
    refine ⟨fun _ j _ => ?_, fun _ => by dsimp only; omega⟩
    by_cases hj : j < 16
    · exact h0 j hj
    · exact BitVec.getLsbD_of_ge v j (by omega)
  | some i =>
    obtain ⟨h1, h2, h3⟩ := (topBit_eq_some v 16 i).1 h
    dsimp only
    constructor
    · intro hlt j hj
      by_cases hj16 : j < 16
      · exact h3 j (by omega) hj16
      · exact BitVec.getLsbD_of_ge v j (by omega)
    · intro hz
      by_contra hge
      simp [hz i (by omega)] at h2

theorem neg_one_le_deg (v : Poly) : -1 ≤ deg v := by
  unfold deg
  cases topBit v 16 <;> dsimp only <;> omega

theorem deg_le_fifteen (v : Poly) : deg v ≤ 15 := by
  have := (deg_lt_iff v 16).2 fun j hj => BitVec.getLsbD_of_ge v j hj
  omega

theorem deg_nonneg_of_ne_zero {v : Poly} (h : v ≠ 0) : 0 ≤ deg v := by
  by_contra hlt
  apply h
  apply BitVec.eq_of_getLsbD_eq
  intro i _
  simpa using (deg_lt_iff v 0).1 (by omega) i (Nat.zero_le i)

/-- The degree of a divisor, as the natural number that shifts use. -/
theorem Divisor.deg_coe (b : Divisor) : (b.deg : Int) = Machine.deg b.val := by
  have := deg_nonneg_of_ne_zero b.property
  unfold Divisor.deg
  omega

end Sys2Proof.Machine
end

