-- ==== Sys2Proof/Laws/State.lean ====
section
/-! SUPPORT. One lemma per field per update of the state: what an update writes and what it leaves. -/

namespace Sys2Proof.Machine

/-! ### writeX -/

@[simp] theorem State.writeX_x (s : State) (r : RegNum) (v : Poly) : (s.writeX r v).x = s.x.set r.toNat v r.isLt := rfl
@[simp] theorem State.writeX_gen (s : State) (r : RegNum) (v : Poly) : (s.writeX r v).gen = s.gen := rfl
@[simp] theorem State.writeX_prob (s : State) (r : RegNum) (v : Poly) : (s.writeX r v).prob = s.prob := rfl
@[simp] theorem State.writeX_kw (s : State) (r : RegNum) (v : Poly) : (s.writeX r v).kw = s.kw := rfl
@[simp] theorem State.writeX_sent (s : State) (r : RegNum) (v : Poly) : (s.writeX r v).sent = s.sent := rfl
@[simp] theorem State.writeX_det (s : State) (r : RegNum) (v : Poly) : (s.writeX r v).det = s.det := rfl
@[simp] theorem State.writeX_syn (s : State) (r : RegNum) (v : Poly) : (s.writeX r v).syn = s.syn := rfl
@[simp] theorem State.writeX_status (s : State) (r : RegNum) (v : Poly) : (s.writeX r v).status = s.status := rfl
@[simp] theorem State.writeX_err (s : State) (r : RegNum) (v : Poly) : (s.writeX r v).err = s.err := rfl
@[simp] theorem State.writeX_ecmd (s : State) (r : RegNum) (v : Poly) : (s.writeX r v).ecmd = s.ecmd := rfl
@[simp] theorem State.writeX_activity (s : State) (r : RegNum) (v : Poly) : (s.writeX r v).activity = s.activity := rfl
@[simp] theorem State.writeX_source (s : State) (r : RegNum) (v : Poly) : (s.writeX r v).source = s.source := rfl
@[simp] theorem State.writeX_host (s : State) (r : RegNum) (v : Poly) : (s.writeX r v).host = s.host := rfl

/-! ### setGen -/

@[simp] theorem State.setGen_x (s : State) (v : Poly) : (s.setGen v).x = s.x := rfl
@[simp] theorem State.setGen_gen (s : State) (v : Poly) : (s.setGen v).gen = v := rfl
@[simp] theorem State.setGen_prob (s : State) (v : Poly) : (s.setGen v).prob = s.prob := rfl
@[simp] theorem State.setGen_kw (s : State) (v : Poly) : (s.setGen v).kw = s.kw := rfl
@[simp] theorem State.setGen_sent (s : State) (v : Poly) : (s.setGen v).sent = s.sent := rfl
@[simp] theorem State.setGen_det (s : State) (v : Poly) : (s.setGen v).det = s.det := rfl
@[simp] theorem State.setGen_syn (s : State) (v : Poly) : (s.setGen v).syn = s.syn := rfl
@[simp] theorem State.setGen_status (s : State) (v : Poly) : (s.setGen v).status = s.status := rfl
@[simp] theorem State.setGen_err (s : State) (v : Poly) : (s.setGen v).err = s.err := rfl
@[simp] theorem State.setGen_ecmd (s : State) (v : Poly) : (s.setGen v).ecmd = s.ecmd := rfl
@[simp] theorem State.setGen_activity (s : State) (v : Poly) : (s.setGen v).activity = s.activity := rfl
@[simp] theorem State.setGen_source (s : State) (v : Poly) : (s.setGen v).source = s.source := rfl
@[simp] theorem State.setGen_host (s : State) (v : Poly) : (s.setGen v).host = s.host := rfl
@[simp] theorem State.setGen_readX (s : State) (v : Poly) (q : RegNum) : (s.setGen v).readX q = s.readX q := rfl

/-! ### setProb -/

@[simp] theorem State.setProb_x (s : State) (v : Threshold) : (s.setProb v).x = s.x := rfl
@[simp] theorem State.setProb_gen (s : State) (v : Threshold) : (s.setProb v).gen = s.gen := rfl
@[simp] theorem State.setProb_prob (s : State) (v : Threshold) : (s.setProb v).prob = v := rfl
@[simp] theorem State.setProb_kw (s : State) (v : Threshold) : (s.setProb v).kw = s.kw := rfl
@[simp] theorem State.setProb_sent (s : State) (v : Threshold) : (s.setProb v).sent = s.sent := rfl
@[simp] theorem State.setProb_det (s : State) (v : Threshold) : (s.setProb v).det = s.det := rfl
@[simp] theorem State.setProb_syn (s : State) (v : Threshold) : (s.setProb v).syn = s.syn := rfl
@[simp] theorem State.setProb_status (s : State) (v : Threshold) : (s.setProb v).status = s.status := rfl
@[simp] theorem State.setProb_err (s : State) (v : Threshold) : (s.setProb v).err = s.err := rfl
@[simp] theorem State.setProb_ecmd (s : State) (v : Threshold) : (s.setProb v).ecmd = s.ecmd := rfl
@[simp] theorem State.setProb_activity (s : State) (v : Threshold) : (s.setProb v).activity = s.activity := rfl
@[simp] theorem State.setProb_source (s : State) (v : Threshold) : (s.setProb v).source = s.source := rfl
@[simp] theorem State.setProb_host (s : State) (v : Threshold) : (s.setProb v).host = s.host := rfl
@[simp] theorem State.setProb_readX (s : State) (v : Threshold) (q : RegNum) : (s.setProb v).readX q = s.readX q := rfl

/-! ### setKw -/

@[simp] theorem State.setKw_x (s : State) (v : WordWidth) : (s.setKw v).x = s.x := rfl
@[simp] theorem State.setKw_gen (s : State) (v : WordWidth) : (s.setKw v).gen = s.gen := rfl
@[simp] theorem State.setKw_prob (s : State) (v : WordWidth) : (s.setKw v).prob = s.prob := rfl
@[simp] theorem State.setKw_kw (s : State) (v : WordWidth) : (s.setKw v).kw = v := rfl
@[simp] theorem State.setKw_sent (s : State) (v : WordWidth) : (s.setKw v).sent = s.sent := rfl
@[simp] theorem State.setKw_det (s : State) (v : WordWidth) : (s.setKw v).det = s.det := rfl
@[simp] theorem State.setKw_syn (s : State) (v : WordWidth) : (s.setKw v).syn = s.syn := rfl
@[simp] theorem State.setKw_status (s : State) (v : WordWidth) : (s.setKw v).status = s.status := rfl
@[simp] theorem State.setKw_err (s : State) (v : WordWidth) : (s.setKw v).err = s.err := rfl
@[simp] theorem State.setKw_ecmd (s : State) (v : WordWidth) : (s.setKw v).ecmd = s.ecmd := rfl
@[simp] theorem State.setKw_activity (s : State) (v : WordWidth) : (s.setKw v).activity = s.activity := rfl
@[simp] theorem State.setKw_source (s : State) (v : WordWidth) : (s.setKw v).source = s.source := rfl
@[simp] theorem State.setKw_host (s : State) (v : WordWidth) : (s.setKw v).host = s.host := rfl
@[simp] theorem State.setKw_readX (s : State) (v : WordWidth) (q : RegNum) : (s.setKw v).readX q = s.readX q := rfl

/-! ### setSent -/

@[simp] theorem State.setSent_x (s : State) (v : Counter) : (s.setSent v).x = s.x := rfl
@[simp] theorem State.setSent_gen (s : State) (v : Counter) : (s.setSent v).gen = s.gen := rfl
@[simp] theorem State.setSent_prob (s : State) (v : Counter) : (s.setSent v).prob = s.prob := rfl
@[simp] theorem State.setSent_kw (s : State) (v : Counter) : (s.setSent v).kw = s.kw := rfl
@[simp] theorem State.setSent_sent (s : State) (v : Counter) : (s.setSent v).sent = v := rfl
@[simp] theorem State.setSent_det (s : State) (v : Counter) : (s.setSent v).det = s.det := rfl
@[simp] theorem State.setSent_syn (s : State) (v : Counter) : (s.setSent v).syn = s.syn := rfl
@[simp] theorem State.setSent_status (s : State) (v : Counter) : (s.setSent v).status = s.status := rfl
@[simp] theorem State.setSent_err (s : State) (v : Counter) : (s.setSent v).err = s.err := rfl
@[simp] theorem State.setSent_ecmd (s : State) (v : Counter) : (s.setSent v).ecmd = s.ecmd := rfl
@[simp] theorem State.setSent_activity (s : State) (v : Counter) : (s.setSent v).activity = s.activity := rfl
@[simp] theorem State.setSent_source (s : State) (v : Counter) : (s.setSent v).source = s.source := rfl
@[simp] theorem State.setSent_host (s : State) (v : Counter) : (s.setSent v).host = s.host := rfl
@[simp] theorem State.setSent_readX (s : State) (v : Counter) (q : RegNum) : (s.setSent v).readX q = s.readX q := rfl

/-! ### setDet -/

@[simp] theorem State.setDet_x (s : State) (v : Counter) : (s.setDet v).x = s.x := rfl
@[simp] theorem State.setDet_gen (s : State) (v : Counter) : (s.setDet v).gen = s.gen := rfl
@[simp] theorem State.setDet_prob (s : State) (v : Counter) : (s.setDet v).prob = s.prob := rfl
@[simp] theorem State.setDet_kw (s : State) (v : Counter) : (s.setDet v).kw = s.kw := rfl
@[simp] theorem State.setDet_sent (s : State) (v : Counter) : (s.setDet v).sent = s.sent := rfl
@[simp] theorem State.setDet_det (s : State) (v : Counter) : (s.setDet v).det = v := rfl
@[simp] theorem State.setDet_syn (s : State) (v : Counter) : (s.setDet v).syn = s.syn := rfl
@[simp] theorem State.setDet_status (s : State) (v : Counter) : (s.setDet v).status = s.status := rfl
@[simp] theorem State.setDet_err (s : State) (v : Counter) : (s.setDet v).err = s.err := rfl
@[simp] theorem State.setDet_ecmd (s : State) (v : Counter) : (s.setDet v).ecmd = s.ecmd := rfl
@[simp] theorem State.setDet_activity (s : State) (v : Counter) : (s.setDet v).activity = s.activity := rfl
@[simp] theorem State.setDet_source (s : State) (v : Counter) : (s.setDet v).source = s.source := rfl
@[simp] theorem State.setDet_host (s : State) (v : Counter) : (s.setDet v).host = s.host := rfl
@[simp] theorem State.setDet_readX (s : State) (v : Counter) (q : RegNum) : (s.setDet v).readX q = s.readX q := rfl

/-! ### setSyn -/

@[simp] theorem State.setSyn_x (s : State) (v : Poly) : (s.setSyn v).x = s.x := rfl
@[simp] theorem State.setSyn_gen (s : State) (v : Poly) : (s.setSyn v).gen = s.gen := rfl
@[simp] theorem State.setSyn_prob (s : State) (v : Poly) : (s.setSyn v).prob = s.prob := rfl
@[simp] theorem State.setSyn_kw (s : State) (v : Poly) : (s.setSyn v).kw = s.kw := rfl
@[simp] theorem State.setSyn_sent (s : State) (v : Poly) : (s.setSyn v).sent = s.sent := rfl
@[simp] theorem State.setSyn_det (s : State) (v : Poly) : (s.setSyn v).det = s.det := rfl
@[simp] theorem State.setSyn_syn (s : State) (v : Poly) : (s.setSyn v).syn = v := rfl
@[simp] theorem State.setSyn_status (s : State) (v : Poly) : (s.setSyn v).status = s.status := rfl
@[simp] theorem State.setSyn_err (s : State) (v : Poly) : (s.setSyn v).err = s.err := rfl
@[simp] theorem State.setSyn_ecmd (s : State) (v : Poly) : (s.setSyn v).ecmd = s.ecmd := rfl
@[simp] theorem State.setSyn_activity (s : State) (v : Poly) : (s.setSyn v).activity = s.activity := rfl
@[simp] theorem State.setSyn_source (s : State) (v : Poly) : (s.setSyn v).source = s.source := rfl
@[simp] theorem State.setSyn_host (s : State) (v : Poly) : (s.setSyn v).host = s.host := rfl
@[simp] theorem State.setSyn_readX (s : State) (v : Poly) (q : RegNum) : (s.setSyn v).readX q = s.readX q := rfl

/-! ### setFlip -/

@[simp] theorem State.setFlip_x (s : State) (b : Bool) : (s.setFlip b).x = s.x := rfl
@[simp] theorem State.setFlip_gen (s : State) (b : Bool) : (s.setFlip b).gen = s.gen := rfl
@[simp] theorem State.setFlip_prob (s : State) (b : Bool) : (s.setFlip b).prob = s.prob := rfl
@[simp] theorem State.setFlip_kw (s : State) (b : Bool) : (s.setFlip b).kw = s.kw := rfl
@[simp] theorem State.setFlip_sent (s : State) (b : Bool) : (s.setFlip b).sent = s.sent := rfl
@[simp] theorem State.setFlip_det (s : State) (b : Bool) : (s.setFlip b).det = s.det := rfl
@[simp] theorem State.setFlip_syn (s : State) (b : Bool) : (s.setFlip b).syn = s.syn := rfl
@[simp] theorem State.setFlip_status (s : State) (b : Bool) : (s.setFlip b).status = ⟨b, s.status.errdet, s.status.halt⟩ := rfl
@[simp] theorem State.setFlip_err (s : State) (b : Bool) : (s.setFlip b).err = s.err := rfl
@[simp] theorem State.setFlip_ecmd (s : State) (b : Bool) : (s.setFlip b).ecmd = s.ecmd := rfl
@[simp] theorem State.setFlip_activity (s : State) (b : Bool) : (s.setFlip b).activity = s.activity := rfl
@[simp] theorem State.setFlip_source (s : State) (b : Bool) : (s.setFlip b).source = s.source := rfl
@[simp] theorem State.setFlip_host (s : State) (b : Bool) : (s.setFlip b).host = s.host := rfl
@[simp] theorem State.setFlip_readX (s : State) (b : Bool) (q : RegNum) : (s.setFlip b).readX q = s.readX q := rfl

/-! ### setErrdet -/

@[simp] theorem State.setErrdet_x (s : State) (b : Bool) : (s.setErrdet b).x = s.x := rfl
@[simp] theorem State.setErrdet_gen (s : State) (b : Bool) : (s.setErrdet b).gen = s.gen := rfl
@[simp] theorem State.setErrdet_prob (s : State) (b : Bool) : (s.setErrdet b).prob = s.prob := rfl
@[simp] theorem State.setErrdet_kw (s : State) (b : Bool) : (s.setErrdet b).kw = s.kw := rfl
@[simp] theorem State.setErrdet_sent (s : State) (b : Bool) : (s.setErrdet b).sent = s.sent := rfl
@[simp] theorem State.setErrdet_det (s : State) (b : Bool) : (s.setErrdet b).det = s.det := rfl
@[simp] theorem State.setErrdet_syn (s : State) (b : Bool) : (s.setErrdet b).syn = s.syn := rfl
@[simp] theorem State.setErrdet_status (s : State) (b : Bool) : (s.setErrdet b).status = ⟨s.status.flip, b, s.status.halt⟩ := rfl
@[simp] theorem State.setErrdet_err (s : State) (b : Bool) : (s.setErrdet b).err = s.err := rfl
@[simp] theorem State.setErrdet_ecmd (s : State) (b : Bool) : (s.setErrdet b).ecmd = s.ecmd := rfl
@[simp] theorem State.setErrdet_activity (s : State) (b : Bool) : (s.setErrdet b).activity = s.activity := rfl
@[simp] theorem State.setErrdet_source (s : State) (b : Bool) : (s.setErrdet b).source = s.source := rfl
@[simp] theorem State.setErrdet_host (s : State) (b : Bool) : (s.setErrdet b).host = s.host := rfl
@[simp] theorem State.setErrdet_readX (s : State) (b : Bool) (q : RegNum) : (s.setErrdet b).readX q = s.readX q := rfl

/-! ### setSource -/

@[simp] theorem State.setSource_x (s : State) (d : RandomSource) : (s.setSource d).x = s.x := rfl
@[simp] theorem State.setSource_gen (s : State) (d : RandomSource) : (s.setSource d).gen = s.gen := rfl
@[simp] theorem State.setSource_prob (s : State) (d : RandomSource) : (s.setSource d).prob = s.prob := rfl
@[simp] theorem State.setSource_kw (s : State) (d : RandomSource) : (s.setSource d).kw = s.kw := rfl
@[simp] theorem State.setSource_sent (s : State) (d : RandomSource) : (s.setSource d).sent = s.sent := rfl
@[simp] theorem State.setSource_det (s : State) (d : RandomSource) : (s.setSource d).det = s.det := rfl
@[simp] theorem State.setSource_syn (s : State) (d : RandomSource) : (s.setSource d).syn = s.syn := rfl
@[simp] theorem State.setSource_status (s : State) (d : RandomSource) : (s.setSource d).status = s.status := rfl
@[simp] theorem State.setSource_err (s : State) (d : RandomSource) : (s.setSource d).err = s.err := rfl
@[simp] theorem State.setSource_ecmd (s : State) (d : RandomSource) : (s.setSource d).ecmd = s.ecmd := rfl
@[simp] theorem State.setSource_activity (s : State) (d : RandomSource) : (s.setSource d).activity = s.activity := rfl
@[simp] theorem State.setSource_source (s : State) (d : RandomSource) : (s.setSource d).source = d := rfl
@[simp] theorem State.setSource_host (s : State) (d : RandomSource) : (s.setSource d).host = s.host := rfl
@[simp] theorem State.setSource_readX (s : State) (d : RandomSource) (q : RegNum) : (s.setSource d).readX q = s.readX q := rfl

/-! ### setHost -/

@[simp] theorem State.setHost_x (s : State) (as : List HostAction) : (s.setHost as).x = s.x := rfl
@[simp] theorem State.setHost_gen (s : State) (as : List HostAction) : (s.setHost as).gen = s.gen := rfl
@[simp] theorem State.setHost_prob (s : State) (as : List HostAction) : (s.setHost as).prob = s.prob := rfl
@[simp] theorem State.setHost_kw (s : State) (as : List HostAction) : (s.setHost as).kw = s.kw := rfl
@[simp] theorem State.setHost_sent (s : State) (as : List HostAction) : (s.setHost as).sent = s.sent := rfl
@[simp] theorem State.setHost_det (s : State) (as : List HostAction) : (s.setHost as).det = s.det := rfl
@[simp] theorem State.setHost_syn (s : State) (as : List HostAction) : (s.setHost as).syn = s.syn := rfl
@[simp] theorem State.setHost_status (s : State) (as : List HostAction) : (s.setHost as).status = s.status := rfl
@[simp] theorem State.setHost_err (s : State) (as : List HostAction) : (s.setHost as).err = s.err := rfl
@[simp] theorem State.setHost_ecmd (s : State) (as : List HostAction) : (s.setHost as).ecmd = s.ecmd := rfl
@[simp] theorem State.setHost_activity (s : State) (as : List HostAction) : (s.setHost as).activity = s.activity := rfl
@[simp] theorem State.setHost_source (s : State) (as : List HostAction) : (s.setHost as).source = s.source := rfl
@[simp] theorem State.setHost_host (s : State) (as : List HostAction) : (s.setHost as).host = as := rfl
@[simp] theorem State.setHost_readX (s : State) (as : List HostAction) (q : RegNum) : (s.setHost as).readX q = s.readX q := rfl

/-! ### raise -/

@[simp] theorem State.raise_x (s : State) (f : Cause) (c : CmdWord) : (s.raise f c).x = s.x := rfl
@[simp] theorem State.raise_gen (s : State) (f : Cause) (c : CmdWord) : (s.raise f c).gen = s.gen := rfl
@[simp] theorem State.raise_prob (s : State) (f : Cause) (c : CmdWord) : (s.raise f c).prob = s.prob := rfl
@[simp] theorem State.raise_kw (s : State) (f : Cause) (c : CmdWord) : (s.raise f c).kw = s.kw := rfl
@[simp] theorem State.raise_sent (s : State) (f : Cause) (c : CmdWord) : (s.raise f c).sent = s.sent := rfl
@[simp] theorem State.raise_det (s : State) (f : Cause) (c : CmdWord) : (s.raise f c).det = s.det := rfl
@[simp] theorem State.raise_syn (s : State) (f : Cause) (c : CmdWord) : (s.raise f c).syn = s.syn := rfl
@[simp] theorem State.raise_status (s : State) (f : Cause) (c : CmdWord) : (s.raise f c).status = ⟨s.status.flip, s.status.errdet, true⟩ := rfl
@[simp] theorem State.raise_err (s : State) (f : Cause) (c : CmdWord) : (s.raise f c).err = f.code := rfl
@[simp] theorem State.raise_ecmd (s : State) (f : Cause) (c : CmdWord) : (s.raise f c).ecmd = c := rfl
@[simp] theorem State.raise_activity (s : State) (f : Cause) (c : CmdWord) : (s.raise f c).activity = s.activity := rfl
@[simp] theorem State.raise_source (s : State) (f : Cause) (c : CmdWord) : (s.raise f c).source = s.source := rfl
@[simp] theorem State.raise_host (s : State) (f : Cause) (c : CmdWord) : (s.raise f c).host = s.host := rfl
@[simp] theorem State.raise_readX (s : State) (f : Cause) (c : CmdWord) (q : RegNum) : (s.raise f c).readX q = s.readX q := rfl

/-! ### awaitDraws -/

@[simp] theorem State.awaitDraws_x (s : State) : s.awaitDraws.x = s.x := rfl
@[simp] theorem State.awaitDraws_gen (s : State) : s.awaitDraws.gen = s.gen := rfl
@[simp] theorem State.awaitDraws_prob (s : State) : s.awaitDraws.prob = s.prob := rfl
@[simp] theorem State.awaitDraws_kw (s : State) : s.awaitDraws.kw = s.kw := rfl
@[simp] theorem State.awaitDraws_sent (s : State) : s.awaitDraws.sent = s.sent := rfl
@[simp] theorem State.awaitDraws_det (s : State) : s.awaitDraws.det = s.det := rfl
@[simp] theorem State.awaitDraws_syn (s : State) : s.awaitDraws.syn = s.syn := rfl
@[simp] theorem State.awaitDraws_status (s : State) : s.awaitDraws.status = s.status := rfl
@[simp] theorem State.awaitDraws_err (s : State) : s.awaitDraws.err = s.err := rfl
@[simp] theorem State.awaitDraws_ecmd (s : State) : s.awaitDraws.ecmd = s.ecmd := rfl
@[simp] theorem State.awaitDraws_activity (s : State) : s.awaitDraws.activity = .waiting := rfl
@[simp] theorem State.awaitDraws_source (s : State) : s.awaitDraws.source = s.source.exhausted := rfl
@[simp] theorem State.awaitDraws_host (s : State) : s.awaitDraws.host = s.host := rfl
@[simp] theorem State.awaitDraws_readX (s : State) (q : RegNum) : s.awaitDraws.readX q = s.readX q := rfl

/-! ### resetEngine -/

@[simp] theorem State.resetEngine_x (s : State) : s.resetEngine.x = Vector.replicate 8 0 := rfl
@[simp] theorem State.resetEngine_gen (s : State) : s.resetEngine.gen = 0 := rfl
@[simp] theorem State.resetEngine_prob (s : State) : s.resetEngine.prob = 0 := rfl
@[simp] theorem State.resetEngine_kw (s : State) : s.resetEngine.kw = 0 := rfl
@[simp] theorem State.resetEngine_sent (s : State) : s.resetEngine.sent = 0 := rfl
@[simp] theorem State.resetEngine_det (s : State) : s.resetEngine.det = 0 := rfl
@[simp] theorem State.resetEngine_syn (s : State) : s.resetEngine.syn = 0 := rfl
@[simp] theorem State.resetEngine_status (s : State) : s.resetEngine.status = ⟨false, false, false⟩ := rfl
@[simp] theorem State.resetEngine_err (s : State) : s.resetEngine.err = 0 := rfl
@[simp] theorem State.resetEngine_ecmd (s : State) : s.resetEngine.ecmd = 0 := rfl
@[simp] theorem State.resetEngine_activity (s : State) : s.resetEngine.activity = .idle := rfl
@[simp] theorem State.resetEngine_source (s : State) : s.resetEngine.source = s.source := rfl
@[simp] theorem State.resetEngine_host (s : State) : s.resetEngine.host = s.host := rfl

@[simp] theorem State.resetEngine_readX (s : State) (q : RegNum) : s.resetEngine.readX q = 0 := by
  simp [State.readX]

/-! ### Reading a general register after a write -/

theorem State.readX_writeX (s : State) (r q : RegNum) (v : Poly) :
    (s.writeX r v).readX q = if q = r then v else s.readX q := by
  simp only [State.writeX, State.readX, Vector.getElem_set]
  by_cases h : q = r
  · simp [h]
  · have : r.toNat ≠ q.toNat := fun e => h (BitVec.eq_of_toNat_eq e.symm)
    simp [h, this]

@[simp] theorem State.readX_writeX_self (s : State) (r : RegNum) (v : Poly) :
    (s.writeX r v).readX r = v := by simp [State.readX_writeX]

theorem State.readX_writeX_other (s : State) (r q : RegNum) (v : Poly) (h : q ≠ r) :
    (s.writeX r v).readX q = s.readX q := by simp [State.readX_writeX, h]

end Sys2Proof.Machine
end

