-- ==== Sys2Proof/Laws/Ops.lean ====
section
/-! SUPPORT. One lemma per shared operation that says what it can do: readiness, checks, the shape of a command, recording a
transmission or a decode. -/

namespace Sys2Proof.Machine

/-! ### Readiness (R39) -/

theorem State.ready_iff (s : State) : s.ready = true ↔ s.activity = .idle ∧ s.err = 0 := by
  simp [State.ready]

theorem State.not_ready_iff (s : State) : s.ready = false ↔ s.activity = .waiting ∨ s.err ≠ 0 := by
  cases h : s.activity <;> simp [State.ready, h]

@[simp] theorem State.ready_raise (s : State) (f : Cause) (c : CmdWord) : (s.raise f c).ready = false := by
  cases f <;> simp [State.ready, Cause.code]

@[simp] theorem State.ready_setHost (s : State) (as : List HostAction) : (s.setHost as).ready = s.ready := rfl

@[simp] theorem State.ready_setSource (s : State) (d : RandomSource) : (s.setSource d).ready = s.ready := rfl

@[simp] theorem Cause.code_ne_zero (f : Cause) : ¬ f.code = 0#4 := by cases f <;> decide

theorem Cause.code_le_six (f : Cause) : f.code.toNat ≤ 6 := by cases f <;> decide

/-! ### Checks (R8, R212) -/

theorem check_pos {bad : Prop} [Decidable bad] (f : Cause) (h : bad) : check bad f = .error f := if_pos h

theorem check_neg {bad : Prop} [Decidable bad] (f : Cause) (h : ¬ bad) : check bad f = .ok () := if_neg h

theorem check_eq_ok (bad : Prop) [Decidable bad] (f : Cause) (a : Unit) : check bad f = .ok a ↔ ¬ bad := by
  unfold check
  split <;> simp_all

theorem check_eq_error (bad : Prop) [Decidable bad] (f e : Cause) :
    check bad f = .error e ↔ bad ∧ e = f := by
  unfold check
  split <;> simp_all [eq_comm]

/-- Checks in a row: the later ones are made if the earlier ones pass. -/
@[simp] theorem checks_ok {α β : Type} (a : α) (rest : α → Except Cause β) :
    ((Except.ok a : Except Cause α) >>= rest) = rest a := rfl

@[simp] theorem checks_error {α β : Type} (e : Cause) (rest : α → Except Cause β) :
    ((Except.error e : Except Cause α) >>= rest) = .error e := rfl

theorem checks_eq_ok {α β : Type} (first : Except Cause α) (rest : α → Except Cause β) (b : β) :
    (first >>= rest) = .ok b ↔ ∃ a, first = .ok a ∧ rest a = .ok b := by
  cases first <;> simp

theorem divisor_eq_ok (b : Poly) (f : Cause) (g : Divisor) : divisor b f = .ok g ↔ g.val = b := by
  obtain ⟨g, hg⟩ := g
  unfold divisor
  split
  · constructor
    · intro h; cases h
    · rintro rfl; contradiction
  · constructor
    · intro h; cases h; rfl
    · rintro rfl; rfl

@[simp] theorem divisor_zero (f : Cause) : divisor 0#16 f = .error f := rfl

theorem divisor_ne_zero (b : Poly) (f : Cause) (h : b ≠ 0) : divisor b f = .ok ⟨b, h⟩ := by
  unfold divisor
  exact dif_neg h

theorem roomFor_eq_ok (c : Counter) (n : Nat) (a : Unit) :
    roomFor c n = .ok a ↔ c.toNat ≤ 4294967295 - n := by
  unfold roomFor
  rw [check_eq_ok]
  exact not_lt

/-! ### The shape of a command -/

section
variable {α : Type} (s : State) (i : Instr) (checks : Except Cause α) (effect : α → State)

theorem State.runCommand_ok {a : α} (hr : s.ready = true) (hc : checks = .ok a) :
    s.runCommand i checks effect = .next (effect a) := by
  simp [State.runCommand, hr, hc]

theorem State.runCommand_error {f : Cause} (hr : s.ready = true) (hc : checks = .error f) :
    s.runCommand i checks effect = .next (s.raise f (encode i)) := by
  simp [State.runCommand, hr, hc]

theorem State.runCommand_notReady (hr : s.ready = false) : s.runCommand i checks effect = .next s := by
  simp [State.runCommand, hr]

/-- Everything a command can do: nothing, a fault entry, or its effect. -/
theorem State.runCommand_cases {t : State} (h : s.runCommand i checks effect = .next t) :
    (s.ready = false ∧ t = s) ∨
    (s.ready = true ∧ ∃ f, checks = .error f ∧ t = s.raise f (encode i)) ∨
    (s.ready = true ∧ ∃ a, checks = .ok a ∧ t = effect a) := by
  cases hr : s.ready with
  | false => rw [State.runCommand_notReady s i checks effect hr] at h; cases h; exact .inl ⟨rfl, rfl⟩
  | true =>
    cases hc : checks with
    | error f =>
      rw [State.runCommand_error s i checks effect hr hc] at h
      cases h
      exact .inr (.inl ⟨rfl, f, rfl, rfl⟩)
    | ok a =>
      rw [State.runCommand_ok s i checks effect hr hc] at h
      cases h
      exact .inr (.inr ⟨rfl, a, rfl, rfl⟩)

/-- A command always answers a next state. -/
theorem State.runCommand_next : ∃ t, s.runCommand i checks effect = .next t := by
  unfold State.runCommand
  split
  · split <;> exact ⟨_, rfl⟩
  · exact ⟨_, rfl⟩

end

/-! ### What a transmission and a decode record -/

section
variable (s : State) (any detected : Bool) (syn : Poly)

@[simp] theorem State.recordTransmission_x : (s.recordTransmission any).x = s.x := by
  cases any <;> rfl
@[simp] theorem State.recordTransmission_gen : (s.recordTransmission any).gen = s.gen := by
  cases any <;> rfl
@[simp] theorem State.recordTransmission_prob : (s.recordTransmission any).prob = s.prob := by
  cases any <;> rfl
@[simp] theorem State.recordTransmission_kw : (s.recordTransmission any).kw = s.kw := by
  cases any <;> rfl
@[simp] theorem State.recordTransmission_sent :
    (s.recordTransmission any).sent = if any then s.sent + 1 else s.sent := by
  cases any <;> rfl
@[simp] theorem State.recordTransmission_det : (s.recordTransmission any).det = s.det := by
  cases any <;> rfl
@[simp] theorem State.recordTransmission_syn : (s.recordTransmission any).syn = s.syn := by
  cases any <;> rfl
@[simp] theorem State.recordTransmission_status :
    (s.recordTransmission any).status = ⟨any, s.status.errdet, s.status.halt⟩ := by
  cases any <;> rfl
@[simp] theorem State.recordTransmission_err : (s.recordTransmission any).err = s.err := by
  cases any <;> rfl
@[simp] theorem State.recordTransmission_ecmd : (s.recordTransmission any).ecmd = s.ecmd := by
  cases any <;> rfl
@[simp] theorem State.recordTransmission_activity : (s.recordTransmission any).activity = s.activity := by
  cases any <;> rfl
@[simp] theorem State.recordTransmission_source : (s.recordTransmission any).source = s.source := by
  cases any <;> rfl
@[simp] theorem State.recordTransmission_host : (s.recordTransmission any).host = s.host := by
  cases any <;> rfl
@[simp] theorem State.recordTransmission_readX (q : RegNum) :
    (s.recordTransmission any).readX q = s.readX q := by
  cases any <;> rfl

@[simp] theorem State.recordDecode_x : (s.recordDecode detected syn).x = s.x := by
  cases detected <;> rfl
@[simp] theorem State.recordDecode_gen : (s.recordDecode detected syn).gen = s.gen := by
  cases detected <;> rfl
@[simp] theorem State.recordDecode_prob : (s.recordDecode detected syn).prob = s.prob := by
  cases detected <;> rfl
@[simp] theorem State.recordDecode_kw : (s.recordDecode detected syn).kw = s.kw := by
  cases detected <;> rfl
@[simp] theorem State.recordDecode_sent : (s.recordDecode detected syn).sent = s.sent := by
  cases detected <;> rfl
@[simp] theorem State.recordDecode_det :
    (s.recordDecode detected syn).det = if detected then s.det + 1 else s.det := by
  cases detected <;> rfl
@[simp] theorem State.recordDecode_syn : (s.recordDecode detected syn).syn = syn := by
  cases detected <;> rfl
@[simp] theorem State.recordDecode_status :
    (s.recordDecode detected syn).status = ⟨s.status.flip, detected, s.status.halt⟩ := by
  cases detected <;> rfl
@[simp] theorem State.recordDecode_err : (s.recordDecode detected syn).err = s.err := by
  cases detected <;> rfl
@[simp] theorem State.recordDecode_ecmd : (s.recordDecode detected syn).ecmd = s.ecmd := by
  cases detected <;> rfl
@[simp] theorem State.recordDecode_activity : (s.recordDecode detected syn).activity = s.activity := by
  cases detected <;> rfl
@[simp] theorem State.recordDecode_source : (s.recordDecode detected syn).source = s.source := by
  cases detected <;> rfl
@[simp] theorem State.recordDecode_host : (s.recordDecode detected syn).host = s.host := by
  cases detected <;> rfl
@[simp] theorem State.recordDecode_readX (q : RegNum) :
    (s.recordDecode detected syn).readX q = s.readX q := by
  cases detected <;> rfl

end

end Sys2Proof.Machine
end

