-- ==== Sys2Proof/Laws/Checks.lean ====
section
/-! SUPPORT. For the checks of each command, one lemma that says when they all pass. -/

namespace Sys2Proof.Machine

theorem thresholdOperand_eq_ok (v : BitVec 24) (t : Threshold) :
    thresholdOperand v = .ok t ↔ v.toNat ≤ 65536 ∧ t = v.extractLsb' 0 17 := by
  unfold thresholdOperand
  split
  · rename_i h
    simp only [reduceCtorEq, false_iff]
    exact fun h' => absurd h (not_lt.2 h'.1)
  · rename_i h
    simp only [Except.ok.injEq]
    exact ⟨fun e => ⟨not_lt.1 h, e.symm⟩, fun h' => h'.2.symm⟩

theorem widthOperand_eq_ok (v : BitVec 24) (k : WordWidth) :
    widthOperand v = .ok k ↔ v.toNat ≤ 16 ∧ k = v.extractLsb' 0 5 := by
  unfold widthOperand
  split
  · rename_i h
    simp only [reduceCtorEq, false_iff]
    exact fun h' => absurd h (not_lt.2 h'.1)
  · rename_i h
    simp only [Except.ok.injEq]
    exact ⟨fun e => ⟨not_lt.1 h, e.symm⟩, fun h' => h'.2.symm⟩

theorem transmissionOperands_eq_ok (c : Poly) (w : BitVec 5) (a : Unit) :
    transmissionOperands c w = .ok a ↔ w.toNat ≤ 16 ∧ c >>> w.toNat = 0 := by
  unfold transmissionOperands
  simp only [checks_eq_ok, check_eq_ok, exists_const, not_lt, gt_iff_lt, ne_eq, Decidable.not_not]

theorem encChecks_eq_ok (gen m : Poly) (g : Divisor) :
    encChecks gen m = .ok g ↔ g.val = gen ∧ encodable g m := by
  unfold encChecks
  simp only [checks_eq_ok, check_eq_ok, divisor_eq_ok, exists_const, Decidable.not_not]
  constructor
  · rintro ⟨g', h1, h2, h3⟩
    cases h3
    exact ⟨h1, h2⟩
  · rintro ⟨h1, h2⟩
    exact ⟨g, h1, h2, rfl⟩

theorem txChecks_eq_ok (s : State) (rs1 : RegNum) (w : BitVec 5) (a : Unit) :
    txChecks s rs1 w = .ok a ↔
      w.toNat ≤ 16 ∧ s.readX rs1 >>> w.toNat = 0 ∧ s.sent.toNat < 4294967295 := by
  unfold txChecks
  simp only [checks_eq_ok, transmissionOperands_eq_ok, roomFor_eq_ok, exists_const, and_assoc]
  refine and_congr_right fun _ => and_congr_right fun _ => ?_
  omega

theorem decChecks_eq_ok (s : State) (g : Divisor) :
    decChecks s = .ok g ↔ g.val = s.gen ∧ s.det.toNat < 4294967295 := by
  unfold decChecks
  simp only [checks_eq_ok, divisor_eq_ok, roomFor_eq_ok, exists_const]
  constructor
  · rintro ⟨g', h1, h2, h3⟩
    cases h3
    exact ⟨h1, by omega⟩
  · rintro ⟨h1, h2⟩
    exact ⟨g, h1, by omega, rfl⟩

theorem trialChecks_eq_ok (s : State) (n : Nat) (g : Divisor) (hn : n ≤ 4294967295) :
    trialChecks s n = .ok g ↔
      g.val = s.gen ∧ n ≠ 0 ∧ trialWidth g s ≤ 16 ∧ s.sent.toNat + n ≤ 4294967295 ∧
        s.det.toNat + n ≤ 4294967295 := by
  unfold trialChecks
  simp only [checks_eq_ok, check_eq_ok, divisor_eq_ok, roomFor_eq_ok, exists_const, gt_iff_lt, not_lt]
  constructor
  · rintro ⟨g', h1, h2, h3, h4, h5, h6⟩
    cases h6
    exact ⟨h1, h2, h3, by omega, by omega⟩
  · rintro ⟨h1, h2, h3, h4, h5⟩
    exact ⟨g, h1, h2, h3, by omega, by omega, rfl⟩

/-- The width of a trial's codeword, by the degree as an integer. -/
theorem trialWidth_coe (g : Divisor) (s : State) : (trialWidth g s : Int) = s.kw.toNat + deg g.val := by
  unfold trialWidth
  have := Divisor.deg_coe g
  push_cast
  omega

end Sys2Proof.Machine
end

