-- ==== Sys2Proof/Laws/Decode.lean ====
section
/-! SUPPORT. The fields of a word in each format, and what it takes for a word to lie under a mask. -/

namespace Sys2Proof.Laws

/-! ### Fields read back from the four formats (R91) -/

@[simp] theorem fieldOp_formatN (op : BitVec 8) : fieldOp (formatN op) = op := by
  apply BitVec.eq_of_getLsbD_eq
  intro i hi
  simp only [fieldOp, formatN, BitVec.getLsbD_extractLsb', BitVec.getLsbD_append]
  interval_cases i <;> simp

@[simp] theorem fieldOp_formatI (op : BitVec 8) (v : BitVec 24) : fieldOp (formatI op v) = op := by
  apply BitVec.eq_of_getLsbD_eq
  intro i hi
  simp only [fieldOp, formatI, BitVec.getLsbD_extractLsb', BitVec.getLsbD_append]
  interval_cases i <;> simp

@[simp] theorem fieldImm24_formatI (op : BitVec 8) (v : BitVec 24) : fieldImm24 (formatI op v) = v := by
  apply BitVec.eq_of_getLsbD_eq
  intro i hi
  simp only [fieldImm24, formatI, BitVec.getLsbD_extractLsb', BitVec.getLsbD_append]
  interval_cases i <;> simp

@[simp] theorem fieldOp_formatL (op : BitVec 8) (rd : RegNum) (v : BitVec 16) :
    fieldOp (formatL op rd v) = op := by
  apply BitVec.eq_of_getLsbD_eq
  intro i hi
  simp only [fieldOp, formatL, BitVec.getLsbD_extractLsb', BitVec.getLsbD_append]
  interval_cases i <;> simp

@[simp] theorem fieldRd_formatL (op : BitVec 8) (rd : RegNum) (v : BitVec 16) :
    fieldRd (formatL op rd v) = rd := by
  apply BitVec.eq_of_getLsbD_eq
  intro i hi
  simp only [fieldRd, formatL, BitVec.getLsbD_extractLsb', BitVec.getLsbD_append]
  interval_cases i <;> simp

@[simp] theorem fieldImm16_formatL (op : BitVec 8) (rd : RegNum) (v : BitVec 16) :
    fieldImm16 (formatL op rd v) = v := by
  apply BitVec.eq_of_getLsbD_eq
  intro i hi
  simp only [fieldImm16, formatL, BitVec.getLsbD_extractLsb', BitVec.getLsbD_append]
  interval_cases i <;> simp

section
variable (op : BitVec 8) (rd rs1 rs2 : RegNum) (w : BitVec 5)

@[simp] theorem fieldOp_formatR : fieldOp (formatR op rd rs1 rs2 w) = op := by
  apply BitVec.eq_of_getLsbD_eq
  intro i hi
  simp only [fieldOp, formatR, BitVec.getLsbD_extractLsb', BitVec.getLsbD_append]
  interval_cases i <;> simp

@[simp] theorem fieldRd_formatR : fieldRd (formatR op rd rs1 rs2 w) = rd := by
  apply BitVec.eq_of_getLsbD_eq
  intro i hi
  simp only [fieldRd, formatR, BitVec.getLsbD_extractLsb', BitVec.getLsbD_append]
  interval_cases i <;> simp

@[simp] theorem fieldRs1_formatR : fieldRs1 (formatR op rd rs1 rs2 w) = rs1 := by
  apply BitVec.eq_of_getLsbD_eq
  intro i hi
  simp only [fieldRs1, formatR, BitVec.getLsbD_extractLsb', BitVec.getLsbD_append]
  interval_cases i <;> simp

@[simp] theorem fieldRs2_formatR : fieldRs2 (formatR op rd rs1 rs2 w) = rs2 := by
  apply BitVec.eq_of_getLsbD_eq
  intro i hi
  simp only [fieldRs2, formatR, BitVec.getLsbD_extractLsb', BitVec.getLsbD_append]
  interval_cases i <;> simp

@[simp] theorem fieldW_formatR : fieldW (formatR op rd rs1 rs2 w) = w := by
  apply BitVec.eq_of_getLsbD_eq
  intro i hi
  simp only [fieldW, formatR, BitVec.getLsbD_extractLsb', BitVec.getLsbD_append]
  interval_cases i <;> simp

end

/-! ### Words under a row -/

/-- A word under a row's mask has that row's opcode: every mask covers the opcode (R95, R96). -/
theorem fieldOp_of_hits (r : Row) (hr : r ∈ rows) (c : CmdWord) (h : r.hits c = true) :
    fieldOp c = fieldOp r.pattern := by
  have hm : fieldOp r.mask = 0xFF := by
    simp only [rows, List.mem_cons, List.not_mem_nil, or_false] at hr
    rcases hr with rfl | rfl | rfl | rfl | rfl | rfl | rfl | rfl | rfl | rfl | rfl | rfl <;> rfl
  have hp : c &&& r.mask = r.pattern := by simpa [Row.hits] using h
  rw [← hp]
  unfold fieldOp at *
  rw [BitVec.extractLsb'_and, hm]
  exact (BitVec.and_allOnes).symm

/-- No two rows have the same opcode (R92). -/
theorem rows_opcodes_nodup : (rows.map fun r => fieldOp r.pattern).Nodup := by
  simp [rows, fieldOp]

/-- A word under a row's mask is that row's command. -/
theorem decode_of_hits (r : Row) (hr : r ∈ rows) (c : CmdWord) (h : r.hits c = true) :
    decode c = .ok (r.build c) := by
  unfold decode
  cases hf : rows.find? (fun r => r.hits c) with
  | none => exact absurd h (by simpa using List.find?_eq_none.1 hf r hr)
  | some q =>
    have hq := List.mem_of_find?_eq_some hf
    have same := List.inj_on_of_nodup_map rows_opcodes_nodup hq hr
      ((fieldOp_of_hits q hq c (List.find?_some (p := fun (r : Row) => r.hits c) hf)).symm.trans (fieldOp_of_hits r hr c h))
    rw [same]

/-- A word that is a command lies under the row that builds it. -/
theorem hits_of_decode (c : CmdWord) (i : Instr) (h : decode c = .ok i) :
    ∃ r ∈ rows, r.hits c = true ∧ i = r.build c := by
  unfold decode at h
  cases hf : rows.find? (fun r => r.hits c) with
  | none => rw [hf] at h; dsimp only at h; split at h <;> cases h
  | some q =>
    rw [hf] at h
    exact ⟨q, List.mem_of_find?_eq_some hf, List.find?_some (p := fun (r : Row) => r.hits c) hf, by cases h; rfl⟩

end Sys2Proof.Laws
end

