-- ==== Sys2Proof/Laws/Draws.lean ====
section
/-! SUPPORT. The draws a command consumes are those of the table of R72. -/

namespace Sys2Proof.Machine

theorem trialDraws_eq (s : State) (n : Nat) (hn : n < 2 ^ 24) :
    trialDraws s n =
      if s.gen ≠ 0 ∧ n ≠ 0 ∧ (s.kw.toNat : Int) + deg s.gen ≤ 16 ∧ s.sent.toNat + n ≤ 4294967295 ∧
        s.det.toNat + n ≤ 4294967295
      then n * (1 + s.kw.toNat + (deg s.gen).toNat) else 0 := by
  unfold trialDraws
  cases h : trialChecks s n with
  | ok g =>
    obtain ⟨h1, h2, h3, h4, h5⟩ := (trialChecks_eq_ok s n g (by omega)).1 h
    have hw := trialWidth_coe g s
    rw [h1] at hw
    rw [if_pos ⟨h1 ▸ g.property, h2, by omega, h4, h5⟩]
    dsimp only
    rw [Nat.add_assoc, ← h1]
    rfl
  | error e =>
    rw [if_neg]
    rintro ⟨h1, h2, h3, h4, h5⟩
    have hw := trialWidth_coe ⟨s.gen, h1⟩ s
    have := (trialChecks_eq_ok s n ⟨s.gen, h1⟩ (by omega)).2 ⟨rfl, h2, by dsimp only at hw; omega, h4, h5⟩
    rw [h] at this
    cases this

/-- A command consumes what the table gives it, if the engine takes it and it does not fault. -/
theorem drawCount_eq (i : Instr) (s : State) :
    drawCount i s = if s.ready = true ∧ firstFault i s = none then tableDraws i s else 0 := by
  unfold drawCount
  split
  · rename_i hr
    have hs := s.sent.isLt
    have hd := s.det.isLt
    have e1 : s.sent = 0xFFFFFFFF ↔ s.sent.toNat = 4294967295 := by rw [← BitVec.toNat_inj]; rfl
    have e2 : s.det = 0xFFFFFFFF ↔ s.det.toNat = 4294967295 := by rw [← BitVec.toNat_inj]; rfl
    cases i with
    | tx rd rs1 w =>
      dsimp only
      cases h : txChecks s rs1 w with
      | ok a =>
        have := (txChecks_eq_ok s rs1 w a).1 h
        rw [if_pos ⟨hr, by simp only [firstFault]; grind⟩]
        rfl
      | error e =>
        rw [if_neg]
        rintro ⟨-, hf⟩
        have := (txChecks_eq_ok s rs1 w ()).2 (by simp only [firstFault] at hf; grind)
        rw [h] at this
        cases this
    | trial =>
      rw [trialDraws_eq s 1 (by omega)]
      simp only [hr, true_and, firstFault, tableDraws]
      grind
    | run imm24 =>
      have hz : imm24 = 0 ↔ imm24.toNat = 0 := by rw [← BitVec.toNat_inj]; rfl
      show trialDraws s imm24.toNat = _
      rw [trialDraws_eq s imm24.toNat imm24.isLt]
      simp only [hr, true_and, firstFault, tableDraws]
      grind
    | _ => simp [tableDraws]
  · rename_i hr
    rw [if_neg fun h => hr h.1]

theorem wordDraws_eq (c : CmdWord) (s : State) : wordDraws c s = wordTableDraws c s := by
  unfold wordDraws wordTableDraws
  cases decode c with
  | error e => rfl
  | ok i => exact drawCount_eq i s

end Sys2Proof.Machine
end

