-- ==== Sys2Proof/Laws/Exec.lean ====
section
/-! SUPPORT. Every command has the one shape of `State.runCommand`: its checks, then its effect. -/

namespace Sys2Proof.Machine

section
variable (s : State) (rd rs1 rs2 : RegNum) (imm16 : BitVec 16) (imm24 : BitVec 24) (w : BitVec 5)

theorem exec_ldi : exec (.ldi rd imm16) s =
    s.runCommand (.ldi rd imm16) (.ok ()) fun _ => s.writeX rd imm16 := rfl

theorem exec_deg : exec (.deg rd rs1) s =
    s.runCommand (.deg rd rs1) (.ok ()) fun _ => s.writeX rd (degreeWord (s.readX rs1)) := rfl

theorem exec_mod : exec (.mod rd rs1 rs2) s =
    s.runCommand (.mod rd rs1 rs2) (divisor (s.readX rs2) .divisionByZero) fun b =>
      s.writeX rd (gf2mod (s.readX rs1) b) := rfl

theorem exec_setg : exec (.setg rs1) s =
    s.runCommand (.setg rs1) (.ok ()) fun _ => s.setGen (s.readX rs1) := rfl

theorem exec_setp : exec (.setp imm24) s =
    s.runCommand (.setp imm24) (thresholdOperand imm24) fun threshold => s.setProb threshold := rfl

theorem exec_setk : exec (.setk imm24) s =
    s.runCommand (.setk imm24) (widthOperand imm24) fun width => s.setKw width := rfl

theorem exec_enc : exec (.enc rd rs1) s =
    s.runCommand (.enc rd rs1) (encChecks s.gen (s.readX rs1)) fun g =>
      s.writeX rd (codeword g (s.readX rs1)) := rfl

theorem exec_tx : exec (.tx rd rs1 w) s =
    s.runCommand (.tx rd rs1 w) (txChecks s rs1 w) fun _ =>
      s.drawing w.toNat fun us t =>
        (t.writeX rd (transmit s.prob us (s.readX rs1)).1).recordTransmission
          (transmit s.prob us (s.readX rs1)).2 := rfl

theorem exec_dec : exec (.dec rd rs1) s =
    s.runCommand (.dec rd rs1) (decChecks s) fun g =>
      (s.writeX rd (informationWord g (s.readX rs1))).recordDecode
        (errorDetected g (s.readX rs1)) (syndrome g (s.readX rs1)) := rfl

theorem exec_trial : exec .trial s = s.runCommand .trial (trialChecks s 1) (s.afterTrials 1) := rfl

theorem exec_run : exec (.run imm24) s =
    s.runCommand (.run imm24) (trialChecks s imm24.toNat) (s.afterTrials imm24.toNat) := rfl

theorem exec_rate : exec .rate s =
    s.runCommand .rate (check (s.sent = 0) .divisionByZero) fun _ => s := rfl

end

/-- The shape of every command. -/
theorem exec_shape (i : Instr) (s : State) :
    ∃ (α : Type) (checks : Except Cause α) (effect : α → State),
      exec i s = s.runCommand i checks effect := by
  cases i with
  | ldi rd imm16 => exact ⟨_, _, _, exec_ldi s rd imm16⟩
  | deg rd rs1 => exact ⟨_, _, _, exec_deg s rd rs1⟩
  | mod rd rs1 rs2 => exact ⟨_, _, _, exec_mod s rd rs1 rs2⟩
  | setg rs1 => exact ⟨_, _, _, exec_setg s rs1⟩
  | setp imm24 => exact ⟨_, _, _, exec_setp s imm24⟩
  | setk imm24 => exact ⟨_, _, _, exec_setk s imm24⟩
  | enc rd rs1 => exact ⟨_, _, _, exec_enc s rd rs1⟩
  | tx rd rs1 w => exact ⟨_, _, _, exec_tx s rd rs1 w⟩
  | dec rd rs1 => exact ⟨_, _, _, exec_dec s rd rs1⟩
  | trial => exact ⟨_, _, _, exec_trial s⟩
  | run imm24 => exact ⟨_, _, _, exec_run s imm24⟩
  | rate => exact ⟨_, _, _, exec_rate s⟩

end Sys2Proof.Machine
end

