-- ==== Sys2Proof/Laws/PerInstr.lean ====
section
/-! SUPPORT. Two statements about every command as syntax, one lemma per constructor: its written form fits its fields (R99), and its
word lies under the row of its mnemonic (R95). -/

namespace Sys2Proof.Laws

/-! ### The written form of a command is well formed -/

/-- A written command is checked against the operand positions of its mnemonic. -/
theorem wellFormed_eq_operandsFit (t : Written) (ps : List Slot) (h : slotsOf.lookup t.mnemonic = some ps) :
    t.wellFormed = operandsFit t.operands ps := by
  simp only [Written.wellFormed, h]

def WrittenForm.Statement (i : Instr) : Prop := i.wellFormed = true

section
variable (rd rs1 rs2 : RegNum) (imm16 : BitVec 16) (imm24 : BitVec 24) (w : BitVec 5)

theorem WrittenForm.ldi : WrittenForm.Statement (.ldi rd imm16) := by
  have := rd.isLt
  have := imm16.isLt
  refine (wellFormed_eq_operandsFit _ _ rfl).trans ?_
  simp only [Instr.written, operandsFit, Operand.fits, Bool.and_true, Bool.and_eq_true, decide_eq_true_eq]
  omega

theorem WrittenForm.deg : WrittenForm.Statement (.deg rd rs1) := by
  have := rd.isLt
  have := rs1.isLt
  refine (wellFormed_eq_operandsFit _ _ rfl).trans ?_
  simp only [Instr.written, operandsFit, Operand.fits, Bool.and_true, Bool.and_eq_true, decide_eq_true_eq]
  omega

theorem WrittenForm.mod : WrittenForm.Statement (.mod rd rs1 rs2) := by
  have := rd.isLt
  have := rs1.isLt
  have := rs2.isLt
  refine (wellFormed_eq_operandsFit _ _ rfl).trans ?_
  simp only [Instr.written, operandsFit, Operand.fits, Bool.and_true, Bool.and_eq_true, decide_eq_true_eq]
  omega

theorem WrittenForm.setg : WrittenForm.Statement (.setg rs1) := by
  have := rs1.isLt
  refine (wellFormed_eq_operandsFit _ _ rfl).trans ?_
  simp only [Instr.written, operandsFit, Operand.fits, Bool.and_true, decide_eq_true_eq]
  omega

theorem WrittenForm.setp : WrittenForm.Statement (.setp imm24) := by
  have := imm24.isLt
  refine (wellFormed_eq_operandsFit _ _ rfl).trans ?_
  simp only [Instr.written, operandsFit, Operand.fits, Bool.and_true, decide_eq_true_eq]
  omega

theorem WrittenForm.setk : WrittenForm.Statement (.setk imm24) := by
  have := imm24.isLt
  refine (wellFormed_eq_operandsFit _ _ rfl).trans ?_
  simp only [Instr.written, operandsFit, Operand.fits, Bool.and_true, decide_eq_true_eq]
  omega

theorem WrittenForm.enc : WrittenForm.Statement (.enc rd rs1) := by
  have := rd.isLt
  have := rs1.isLt
  refine (wellFormed_eq_operandsFit _ _ rfl).trans ?_
  simp only [Instr.written, operandsFit, Operand.fits, Bool.and_true, Bool.and_eq_true, decide_eq_true_eq]
  omega

theorem WrittenForm.tx : WrittenForm.Statement (.tx rd rs1 w) := by
  have := rd.isLt
  have := rs1.isLt
  have := w.isLt
  refine (wellFormed_eq_operandsFit _ _ rfl).trans ?_
  simp only [Instr.written, operandsFit, Operand.fits, Bool.and_true, Bool.and_eq_true, decide_eq_true_eq]
  omega

theorem WrittenForm.dec : WrittenForm.Statement (.dec rd rs1) := by
  have := rd.isLt
  have := rs1.isLt
  refine (wellFormed_eq_operandsFit _ _ rfl).trans ?_
  simp only [Instr.written, operandsFit, Operand.fits, Bool.and_true, Bool.and_eq_true, decide_eq_true_eq]
  omega

theorem WrittenForm.trial : WrittenForm.Statement .trial := rfl

theorem WrittenForm.run : WrittenForm.Statement (.run imm24) := by
  have := imm24.isLt
  refine (wellFormed_eq_operandsFit _ _ rfl).trans ?_
  simp only [Instr.written, operandsFit, Operand.fits, Bool.and_true, decide_eq_true_eq]
  omega

theorem WrittenForm.rate : WrittenForm.Statement .rate := rfl

end

/-! ### The word of a command lies under its row -/

def TableRow.Statement (i : Instr) : Prop :=
  ∃ r ∈ rows, r.mnemonic = i.written.mnemonic ∧ r.hits (encode i) = true

/-- A word is under a mask when every bit is. -/
theorem hits_of_bits (r : Row) (c : CmdWord)
    (h : ∀ j < 32, (c.getLsbD j && r.mask.getLsbD j) = r.pattern.getLsbD j) : r.hits c = true := by
  simp only [Row.hits, beq_iff_eq]
  exact BitVec.eq_of_getLsbD_eq fun j hj => by simpa using h j hj

section
variable (rd rs1 rs2 : RegNum) (imm16 : BitVec 16) (imm24 : BitVec 24) (w : BitVec 5)

theorem TableRow.ldi : TableRow.Statement (.ldi rd imm16) := by
  refine ⟨rows[0], List.getElem_mem _, rfl, hits_of_bits _ _ fun j hj => ?_⟩
  simp only [encode, formatL, BitVec.getLsbD_append]
  interval_cases j <;> simp [rows]

theorem TableRow.deg : TableRow.Statement (.deg rd rs1) := by
  refine ⟨rows[1], List.getElem_mem _, rfl, hits_of_bits _ _ fun j hj => ?_⟩
  simp only [encode, formatR, BitVec.getLsbD_append]
  interval_cases j <;> simp [rows]

theorem TableRow.mod : TableRow.Statement (.mod rd rs1 rs2) := by
  refine ⟨rows[2], List.getElem_mem _, rfl, hits_of_bits _ _ fun j hj => ?_⟩
  simp only [encode, formatR, BitVec.getLsbD_append]
  interval_cases j <;> simp [rows]

theorem TableRow.setg : TableRow.Statement (.setg rs1) := by
  refine ⟨rows[3], List.getElem_mem _, rfl, hits_of_bits _ _ fun j hj => ?_⟩
  simp only [encode, formatR, BitVec.getLsbD_append]
  interval_cases j <;> simp [rows]

theorem TableRow.setp : TableRow.Statement (.setp imm24) := by
  refine ⟨rows[4], List.getElem_mem _, rfl, hits_of_bits _ _ fun j hj => ?_⟩
  simp only [encode, formatI, BitVec.getLsbD_append]
  interval_cases j <;> simp [rows]

theorem TableRow.setk : TableRow.Statement (.setk imm24) := by
  refine ⟨rows[5], List.getElem_mem _, rfl, hits_of_bits _ _ fun j hj => ?_⟩
  simp only [encode, formatI, BitVec.getLsbD_append]
  interval_cases j <;> simp [rows]

theorem TableRow.enc : TableRow.Statement (.enc rd rs1) := by
  refine ⟨rows[6], List.getElem_mem _, rfl, hits_of_bits _ _ fun j hj => ?_⟩
  simp only [encode, formatR, BitVec.getLsbD_append]
  interval_cases j <;> simp [rows]

theorem TableRow.tx : TableRow.Statement (.tx rd rs1 w) := by
  refine ⟨rows[7], List.getElem_mem _, rfl, hits_of_bits _ _ fun j hj => ?_⟩
  simp only [encode, formatR, BitVec.getLsbD_append]
  interval_cases j <;> simp [rows]

theorem TableRow.dec : TableRow.Statement (.dec rd rs1) := by
  refine ⟨rows[8], List.getElem_mem _, rfl, hits_of_bits _ _ fun j hj => ?_⟩
  simp only [encode, formatR, BitVec.getLsbD_append]
  interval_cases j <;> simp [rows]

theorem TableRow.trial : TableRow.Statement .trial :=
  ⟨rows[9], List.getElem_mem _, rfl, rfl⟩

theorem TableRow.run : TableRow.Statement (.run imm24) := by
  refine ⟨rows[10], List.getElem_mem _, rfl, hits_of_bits _ _ fun j hj => ?_⟩
  simp only [encode, formatI, BitVec.getLsbD_append]
  interval_cases j <;> simp [rows]

theorem TableRow.rate : TableRow.Statement .rate :=
  ⟨rows[11], List.getElem_mem _, rfl, rfl⟩

end

end Sys2Proof.Laws
end

