-- ==== Sys2Proof/Laws/Source.lean ====
section
/-! SUPPORT. The random source: when it answers, what it hands out, and what a command that draws can do. -/

namespace Sys2Proof.Machine

theorem RandomSource.draw_eq_none (d : RandomSource) :
    d.draw = none ↔ d.answers = [] ∧ d.silent = true := by
  unfold RandomSource.draw
  cases h : d.answers with
  | cons u us => simp
  | nil => cases hs : d.silent <;> simp

/-- What one draw leaves of the source. -/
theorem RandomSource.draw_spec {d d' : RandomSource} {u : Draw} (h : d.draw = some (u, d')) :
    d'.used = d.used + 1 ∧ d'.silent = d.silent ∧ d'.answers = d.answers.drop 1 ∧
      (d.silent = true → 1 ≤ d.answers.length) := by
  unfold RandomSource.draw at h
  cases ha : d.answers with
  | cons v us => rw [ha] at h; cases h; simp
  | nil =>
    rw [ha] at h
    cases hs : d.silent with
    | true => simp [hs] at h
    | false => simp [hs] at h; obtain ⟨-, rfl⟩ := h; simp

/-- The source is asked once more. -/
theorem RandomSource.take_succ (n : Nat) (d : RandomSource) :
    RandomSource.take (n + 1) d =
      d.draw.bind fun p => (p.2.take n).map fun q => (p.1 :: q.1, q.2) := by
  conv => lhs; unfold RandomSource.take
  cases h : d.draw with
  | none => rfl
  | some p =>
    obtain ⟨u, d'⟩ := p
    dsimp only [Option.bind]
    cases h2 : d'.take n with
    | none => rfl
    | some q => rfl

/-- What `n` draws leave of the source, and how many they hand out. -/
theorem RandomSource.take_spec (n : Nat) : ∀ {d d' : RandomSource} {us : List Draw},
    d.take n = some (us, d') →
      us.length = n ∧ d'.used = d.used + n ∧ d'.silent = d.silent ∧ d'.answers = d.answers.drop n ∧
        (d.silent = true → n ≤ d.answers.length) := by
  induction n with
  | zero => intro d d' us h; cases h; simp
  | succ n ih =>
    intro d d' us h
    rw [RandomSource.take_succ] at h
    obtain ⟨⟨u, d₁⟩, h₁, h₂⟩ := Option.bind_eq_some_iff.1 h
    obtain ⟨⟨vs, d₂⟩, h₃, h₄⟩ := Option.map_eq_some_iff.1 h₂
    cases h₄
    obtain ⟨a1, a2, a3, a4⟩ := RandomSource.draw_spec h₁
    obtain ⟨b1, b2, b3, b4, b5⟩ := ih h₃
    dsimp only at b2 b3 b4 b5
    refine ⟨by simp [b1], by dsimp only; omega, b3.trans a2, ?_, ?_⟩
    · rw [b4, a3, List.drop_drop, Nat.add_comm]
    · intro hs
      have c1 := a4 hs
      have c2 := b5 (a2.trans hs)
      rw [a3, List.length_drop] at c2
      omega

/-- The source answers `n` draws exactly when it is not silent or still has that many answers. -/
theorem RandomSource.take_isSome (n : Nat) (d : RandomSource) :
    (d.take n).isSome = d.canAnswer n := by
  induction n generalizing d with
  | zero => simp [RandomSource.take, RandomSource.canAnswer]
  | succ n ih =>
    rw [RandomSource.take_succ]
    cases h : d.draw with
    | none => obtain ⟨ha, hs⟩ := (RandomSource.draw_eq_none d).1 h; simp [RandomSource.canAnswer, ha, hs]
    | some p =>
      obtain ⟨u, d'⟩ := p
      obtain ⟨-, a2, a3, a4⟩ := RandomSource.draw_spec h
      have := ih d'
      simp only [Option.bind_some, Option.isSome_map, this, RandomSource.canAnswer, a2, a3]
      cases hs : d.silent with
      | false => simp
      | true =>
        have := a4 hs
        simp only [List.length_drop, Bool.not_true, Bool.false_or, decide_eq_decide]
        omega

/-- `m + n` draws are `m` draws and then `n`. -/
theorem RandomSource.take_add (m n : Nat) (d : RandomSource) :
    d.take (m + n) = (d.take m).bind fun p => (p.2.take n).map fun q => (p.1 ++ q.1, q.2) := by
  induction m generalizing d with
  | zero => simp [RandomSource.take]
  | succ m ih =>
    rw [Nat.succ_add_eq_add_succ, Nat.add_comm m (n + 1), Nat.add_right_comm, Nat.add_comm n m,
      RandomSource.take_succ, RandomSource.take_succ]
    cases h : d.draw with
    | none => rfl
    | some p =>
      simp only [Option.bind_some, ih, Option.bind_map, Option.map_bind]
      cases h2 : p.2.take m with
      | none => rfl
      | some q =>
        simp only [Option.bind_some, Option.map_map, Function.comp_def]
        rfl

/-- A command that draws has its effect on the draws, or waits. -/
theorem State.drawing_cases (s : State) (n : Nat) (use : List Draw → State → State) :
    (∃ us d, s.source.take n = some (us, d) ∧ s.drawing n use = use us (s.setSource d)) ∨
    (s.source.canAnswer n = false ∧ s.drawing n use = s.awaitDraws) := by
  unfold State.drawing
  cases h : s.source.take n with
  | some p => obtain ⟨us, d⟩ := p; exact .inl ⟨us, d, rfl, rfl⟩
  | none =>
    refine .inr ⟨?_, rfl⟩
    rw [← RandomSource.take_isSome, h]; rfl

/-- What a part of `n` draws leaves of the source (R244): it is after `n` draws, or after all it answers. -/
theorem RandomSource.skip_spec (n : Nat) (d : RandomSource) :
    ∃ k, k = (if d.canAnswer n = true then n else d.answers.length) ∧
      d.skip n = ⟨d.answers.drop k, d.used + k, d.silent⟩ := by
  refine ⟨_, rfl, ?_⟩
  induction n generalizing d with
  | zero => simp [RandomSource.skip, RandomSource.canAnswer]
  | succ n ih =>
    unfold RandomSource.skip
    cases h : d.draw with
    | none =>
      obtain ⟨ha, hs⟩ := (RandomSource.draw_eq_none d).1 h
      obtain ⟨answers, used, silent⟩ := d
      cases ha
      cases hs
      rfl
    | some p =>
      obtain ⟨u, d'⟩ := p
      obtain ⟨a1, a2, a3, a4⟩ := RandomSource.draw_spec h
      have hk : (if d.canAnswer (n + 1) = true then n + 1 else d.answers.length) =
          1 + if d'.canAnswer n = true then n else d'.answers.length := by
        simp only [RandomSource.canAnswer, a2, a3, List.length_drop, Bool.or_eq_true, decide_eq_true_eq,
          Bool.not_eq_true']
        by_cases hs : d.silent = true
        · have := a4 hs
          simp only [hs, Bool.true_eq_false, false_or]
          split <;> split <;> omega
        · simp [hs, Nat.add_comm]
      dsimp only
      rw [ih d', a1, a2, a3, List.drop_drop, hk, Nat.add_assoc, a3]

end Sys2Proof.Machine
end

