-- ==== Sys2Proof/Laws/Statistics.lean ====
section
/-! SUPPORT. What a trial and a run of trials leave alone, and how many draws they take. -/

namespace Sys2Proof.Machine

/-- What trials never touch: the general registers, the configuration, the fault record, the host's actions, the activity. -/
abbrev OutsideTrials (s t : State) : Prop :=
  t.x = s.x ∧ t.gen = s.gen ∧ t.prob = s.prob ∧ t.kw = s.kw ∧ t.err = s.err ∧ t.ecmd = s.ecmd ∧
    t.status.halt = s.status.halt ∧ t.host = s.host ∧ t.activity = s.activity

theorem State.recordTrial_frame (s : State) (g : Divisor) (u : Draw) (us : List Draw) :
    OutsideTrials s (s.recordTrial g u us) ∧ (s.recordTrial g u us).source = s.source := by
  simp [OutsideTrials, State.recordTrial]

/-- A trial takes its `1 + n` draws and records them. -/
theorem trial_eq (g : Divisor) (s : State) :
    trial g s = s.source.draw.bind fun p =>
      (p.2.take (trialWidth g s)).map fun q => (s.setSource q.2).recordTrial g p.1 q.1 := by
  unfold trial
  cases h : s.source.draw with
  | none => rfl
  | some p =>
    obtain ⟨u, d⟩ := p
    dsimp only [Option.bind]
    cases h2 : d.take (trialWidth g s) with
    | none => rfl
    | some q => rfl

theorem trial_spec {g : Divisor} {s t : State} (h : trial g s = some t) :
    ∃ u us d, s.source.take (1 + trialWidth g s) = some (u :: us, d) ∧
      t = (s.setSource d).recordTrial g u us := by
  rw [trial_eq] at h
  obtain ⟨⟨u, d₁⟩, h₁, h₂⟩ := Option.bind_eq_some_iff.1 h
  obtain ⟨⟨us, d₂⟩, h₃, rfl⟩ := Option.map_eq_some_iff.1 h₂
  refine ⟨u, us, d₂, ?_, rfl⟩
  dsimp only at h₃
  rw [Nat.add_comm, RandomSource.take_succ, h₁]
  simp [h₃]

theorem trial_isSome (g : Divisor) (s : State) :
    (trial g s).isSome = s.source.canAnswer (1 + trialWidth g s) := by
  rw [trial_eq, ← RandomSource.take_isSome, Nat.add_comm, RandomSource.take_succ]
  cases h : s.source.draw <;> simp

/-- The state `trial` leaves: nothing outside trials is touched, and its draws are consumed. -/
theorem trial_frame {g : Divisor} {s t : State} (h : trial g s = some t) :
    OutsideTrials s t ∧ t.source.used = s.source.used + (1 + trialWidth g s) ∧
      t.source.silent = s.source.silent ∧
      t.source.answers = s.source.answers.drop (1 + trialWidth g s) ∧
      trialWidth g t = trialWidth g s := by
  obtain ⟨u, us, d, hd, rfl⟩ := trial_spec h
  obtain ⟨-, h2, h3, h4, -⟩ := RandomSource.take_spec _ hd
  obtain ⟨hf, hs⟩ := State.recordTrial_frame (s.setSource d) g u us
  refine ⟨hf, ?_, ?_, ?_, ?_⟩
  · rw [hs]; exact h2
  · rw [hs]; exact h3
  · rw [hs]; exact h4
  · unfold trialWidth; rw [hf.2.2.2.1]; rfl

/-- The state `n` trials leave: nothing outside trials is touched, and all their draws are consumed. -/
theorem trials_frame {g : Divisor} (n : Nat) : ∀ {s t : State}, trials g n s = some t →
    OutsideTrials s t ∧ t.source.used = s.source.used + n * (1 + trialWidth g s) ∧
      t.source.silent = s.source.silent ∧
      t.source.answers = s.source.answers.drop (n * (1 + trialWidth g s)) := by
  induction n with
  | zero => intro s t h; cases h; simp [OutsideTrials]
  | succ n ih =>
    intro s t h
    unfold trials at h
    cases h1 : trial g s with
    | none => rw [h1] at h; cases h
    | some r =>
      rw [h1] at h
      obtain ⟨a1, a2, a3, a4, a5⟩ := trial_frame h1
      obtain ⟨b1, b2, b3, b4⟩ := ih h
      refine ⟨?_, ?_, b3.trans a3, ?_⟩
      · refine ⟨b1.1.trans a1.1, b1.2.1.trans a1.2.1, b1.2.2.1.trans a1.2.2.1,
          b1.2.2.2.1.trans a1.2.2.2.1, b1.2.2.2.2.1.trans a1.2.2.2.2.1,
          b1.2.2.2.2.2.1.trans a1.2.2.2.2.2.1, b1.2.2.2.2.2.2.1.trans a1.2.2.2.2.2.2.1,
          b1.2.2.2.2.2.2.2.1.trans a1.2.2.2.2.2.2.2.1, b1.2.2.2.2.2.2.2.2.trans a1.2.2.2.2.2.2.2.2⟩
      · rw [b2, a2, a5, Nat.succ_mul]; omega
      · rw [b4, a4, a5, List.drop_drop, Nat.succ_mul, Nat.add_comm]

/-- `n` trials complete exactly when the source answers all their draws. -/
theorem trials_isSome (g : Divisor) (n : Nat) : ∀ s : State,
    (trials g n s).isSome = s.source.canAnswer (n * (1 + trialWidth g s)) := by
  induction n with
  | zero => intro s; simp [trials, RandomSource.canAnswer]
  | succ n ih =>
    intro s
    unfold trials
    have hs := trial_isSome g s
    cases h1 : trial g s with
    | none =>
      rw [h1] at hs
      simp only [Option.isSome_none, RandomSource.canAnswer, Bool.false_eq, Bool.or_eq_false_iff,
        Bool.not_eq_false', decide_eq_false_iff_not, Nat.succ_mul] at hs ⊢
      exact ⟨hs.1, by have := hs.2; omega⟩
    | some r =>
      obtain ⟨-, -, a3, a4, a5⟩ := trial_frame h1
      rw [h1] at hs
      dsimp only
      rw [ih r, a5]
      simp only [RandomSource.canAnswer, Option.isSome_some, a3, a4] at hs ⊢
      cases hq : s.source.silent with
      | false => rfl
      | true =>
        simp only [hq, Bool.not_true, Bool.false_or, true_eq_decide_iff] at hs
        simp only [Bool.not_true, Bool.false_or, List.length_drop, decide_eq_decide, Nat.succ_mul]
        omega

theorem trials_succ (g : Divisor) (n : Nat) (s : State) :
    trials g (n + 1) s = (trial g s).bind (trials g n) := by
  conv => lhs; unfold trials
  cases trial g s <;> rfl

/-- Trials one after another. -/
theorem trials_add (g : Divisor) (m n : Nat) (s : State) :
    trials g (m + n) s = (trials g m s).bind (trials g n) := by
  induction m generalizing s with
  | zero => simp [trials]
  | succ m ih =>
    rw [Nat.succ_add, trials_succ, trials_succ]
    cases h : trial g s with
    | none => rfl
    | some r => exact ih r

end Sys2Proof.Machine
end

