-- ==== Sys2Proof/Tests/Slice0.lean ====
section
/-! SUPPORT. The model's own tests, with expected results from `30_encoding.md` R91 to R101 and `95_test_vectors.md`, and for every
statement with hypotheses a witness that meets them. -/

namespace Sys2Proof.Tests

open Sys2Proof.Machine

/-! ### Small states -/

/-- The reference code with 4-bit words and probability 0.9 (V9), the codeword 0x31 in `x3`. -/
def ready : State :=
  { State.reset with
    x := #v[0, 0x000B, 0x0006, 0x0031, 0, 0, 0x0030, 0xFFFF], gen := 0x000B, prob := 0x0E666, kw := 4,
    source := ⟨[0x6ABC, 0x1000, 0x2000, 0xF000, 0x3000, 0x4000, 0x5000, 0x6000], 0, true⟩ }

/-- The same with the channel draws only (V5 row 1). -/
def channel : State :=
  { ready with source := ⟨[0x1000, 0x2000, 0xF000, 0x3000, 0x4000, 0x5000, 0x6000], 0, true⟩ }

def halted : State := ready.raise .divisionByZero 0x0C000000
def waiting : State := ready.awaitDraws
def presents (s : State) (c : CmdWord) : State := { s with host := [.command c] }

/-- A field of the state a command leaves. -/
def leaves {α : Type} (f : State → α) : Host.Outcome State Fault Refusal → Option α
  | .next t => some (f t)
  | .fault _ => none
  | .refused _ => none

def faultRecord (t : State) : BitVec 4 × CmdWord × Bool := (t.err, t.ecmd, t.status.halt)

/-! ### Written commands that an assembler rejects (R99) -/

theorem test_unknown_mnemonic : (Written.mk "MOV" [.reg 1, .reg 2]).wellFormed = false := by decide
theorem test_missing_operand : (Written.mk "LDI" [.reg 1]).wellFormed = false := by decide
theorem test_extra_operand : (Written.mk "TRIAL" [.imm 1]).wellFormed = false := by decide
theorem test_register_for_immediate : (Written.mk "SETK" [.reg 4]).wellFormed = false := by decide
theorem test_immediate_for_register : (Written.mk "SETG" [.imm 1]).wellFormed = false := by decide
theorem test_register_too_high : (Written.mk "SETG" [.reg 8]).wellFormed = false := by decide
theorem test_imm16_too_wide : (Written.mk "LDI" [.reg 1, .imm 0x10000]).wellFormed = false := by decide
theorem test_imm24_too_wide : (Written.mk "RUN" [.imm 0x1000000]).wellFormed = false := by decide
theorem test_width_too_wide : (Written.mk "TX" [.reg 4, .reg 3, .imm 32]).wellFormed = false := by decide
theorem test_out_of_range_is_written : (Written.mk "SETK" [.imm 17]).wellFormed = true := by decide

/-! ### Words written out bit by bit from the formats of R91 -/

theorem test_decode_ldi : decode 0b00000001_111_00000_1111111111111111 = .ok (.ldi 7 0xFFFF) := by rfl
theorem test_decode_deg : decode 0b00000010_110_101_000_00000_0000000000 = .ok (.deg 6 5) := by rfl
theorem test_decode_mod : decode 0b00000011_010_000_001_00000_0000000000 = .ok (.mod 2 0 1) := by rfl
theorem test_decode_setg : decode 0b00000100_000_001_000_00000_0000000000 = .ok (.setg 1) := by rfl
theorem test_decode_setp : decode 0b00000101_000000010000000000000001 = .ok (.setp 0x010001) := by rfl
theorem test_decode_setk : decode 0b00000110_000000000000000000010001 = .ok (.setk 17) := by rfl
theorem test_decode_enc : decode 0b00000111_011_010_000_00000_0000000000 = .ok (.enc 3 2) := by rfl
theorem test_decode_tx : decode 0b00001000_100_011_000_00111_0000000000 = .ok (.tx 4 3 7) := by rfl
theorem test_decode_dec : decode 0b00001001_101_100_000_00000_0000000000 = .ok (.dec 5 4) := by rfl
theorem test_decode_trial : decode 0b00001010_000000000000000000000000 = .ok .trial := by rfl
theorem test_decode_run : decode 0b00001011_000000000000001111101000 = .ok (.run 1000) := by rfl
theorem test_decode_rate : decode 0b00001100_000000000000000000000000 = .ok .rate := by rfl
theorem test_encode_tx : encode (.tx 4 3 7) = 0x088C1C00 := by decide
theorem test_encode_mod : encode (.mod 3 1 2) = 0x03650000 := by decide
theorem test_table_word : decodeTableWord 32 0x01E0FFFF = some (.ldi 7 0xFFFF) := by rfl

/-! ### Illegal words (V10) -/

theorem test_illegal_mod_bit : decode 0x03650001 = .error .mbzNotZero := by rfl
theorem test_illegal_rate_bit : decode 0x0C800000 = .error .mbzNotZero := by rfl
theorem test_illegal_tx_rs2 : decode 0x08AC9C00 = .error .mbzNotZero := by rfl
theorem test_illegal_all_ones : decode 0xFFFFFFFF = .error .undefinedOpcode := by rfl

/-! ### The assembler (R101) -/

theorem test_assemble_tx :
    assembleLine ['T', 'X', ' ', 'x', '4', ',', ' ', 'x', '3', ',', ' ', '7'] = some 0x088C1C00 := by decide
theorem test_assemble_setp :
    assembleLine ['S', 'E', 'T', 'P', ' ', '0', 'x', '0', '0', 'E', '6', '6', '6', ' ', ';', 'p'] =
      some 0x0500E666 := by decide

/-! ### Commands (V1 to V9) -/

theorem test_ldi : leaves (·.readX 7) (exec (.ldi 7 0x1234) ready) = some 0x1234 := by decide
theorem test_deg_zero : leaves (·.readX 6) (exec (.deg 6 5) ready) = some 0xFFFF := by decide
theorem test_deg_top : leaves (·.readX 2) (exec (.deg 2 7) ready) = some 0x000F := by decide
theorem test_mod : leaves (·.readX 3) (exec (.mod 3 6 1) ready) = some 0x0001 := by decide
theorem test_mod_same : leaves (·.readX 7) (exec (.mod 7 7 7) ready) = some 0x0000 := by decide
theorem test_mod_long : gf2mod 0xFFFF ⟨1, by decide⟩ = 0 := by decide
theorem test_setg : leaves (·.gen) (exec (.setg 6) ready) = some 0x0030 := by decide
theorem test_setp_one : leaves (·.prob) (exec (.setp 0x010000) ready) = some 0x10000 := by decide
theorem test_setp_above : leaves faultRecord (exec (.setp 0x010001) ready) = some (3, 0x05010001, true) := by decide
theorem test_setk : leaves (·.kw) (exec (.setk 16) ready) = some 16 := by decide
theorem test_setk_above : leaves faultRecord (exec (.setk 17) ready) = some (4, 0x06000011, true) := by decide
theorem test_enc : leaves (·.readX 3) (exec (.enc 3 2) ready) = some 0x0031 := by decide
theorem test_enc_range : leaves faultRecord (exec (.enc 3 7) ready) = some (4, 0x077C0000, true) := by decide
theorem test_tx : leaves (fun t => (t.readX 4, t.status.flip, t.sent, t.source.used)) (exec (.tx 4 3 7) channel) =
    some (0x0021, true, 1, 7) := by decide
theorem test_tx_zero_width :
    leaves (fun t => (t.readX 1, t.status.flip, t.sent)) (exec (.tx 1 0 0) channel) = some (0, false, 0) := by decide
theorem test_dec : leaves (fun t => (t.readX 4, t.syn, t.status.errdet, t.det)) (exec (.dec 4 3) ready) =
    some (0x0006, 0, false, 0) := by decide
theorem test_dec_all_ones : leaves (fun t => (t.readX 4, t.syn, t.status.errdet, t.det)) (exec (.dec 4 7) ready) =
    some (0x1FFF, 3, true, 1) := by decide
theorem test_trial : leaves (fun t => (t.sent, t.det, t.syn, t.status)) (exec .trial ready) =
    some (1, 1, 0x0006, ⟨true, true, false⟩) := by decide
theorem test_trial_no_generator : leaves faultRecord (exec .trial (ready.setGen 0)) =
    some (1, 0x0A000000, true) := by decide
theorem test_run_two :
    leaves (fun t => (t.sent, t.det, t.syn, t.status)) (exec (.run 2)
      { ready with prob := 0, source := ⟨List.replicate 8 0 ++ List.replicate 8 0xFFFF, 0, true⟩ }) =
      some (2, 0, 0, ⟨true, false, false⟩) := by decide
theorem test_run_overflow : leaves faultRecord (exec (.run 2) (ready.setSent 0xFFFFFFFE)) =
    some (5, 0x0B000002, true) := by decide
theorem test_rate : leaves faultRecord (exec .rate ready) = some (2, 0x0C000000, true) := by decide

/-! ### The machine around a command -/

theorem test_step_illegal : leaves faultRecord (step (presents ready 0x0A000001)) = some (6, 0x0A000001, true) := by decide
theorem test_halted_ignores : leaves faultRecord (step (presents halted 0x00000000)) = some (2, 0x0C000000, true) := by decide
theorem test_fetch_word : leaves (·.readX 0) (step (State.reset.withFetchWord 32 0x01001234)) = some 0x1234 := by decide
theorem test_silent_source : leaves (fun t => (t.activity, t.source.used)) (exec (.run 2) ready) =
    some (.waiting, 8) := by decide
theorem test_read_status : halted.readPort 14 = some 4 := by decide
theorem test_read_code : halted.readPort 15 = some 2 := by decide
theorem test_bits_of_six : intToBits 6 = [true, true, false] := by decide
theorem test_infoword : infoword 0xABCD 15 = 0x55E6 := by decide

/-! ### Witnesses: for each statement with hypotheses, a state and operands that meet them, clause by clause -/

theorem witness_EncodeReadsBackDecoding : decode 0x01E0FFFF = .ok (.ldi 7 0xFFFF) := by rfl

theorem witness_StepRunsThePresentedCommand :
    (presents ready 0x01E0FFFF).activity = .idle ∧
      (presents ready 0x01E0FFFF).host = .command 0x01E0FFFF :: [] ∧
      decode 0x01E0FFFF = .ok (.ldi 7 0xFFFF) := ⟨rfl, rfl, rfl⟩

theorem witness_FaultPriority_halted :
    (presents halted 0x0C000000).activity = .idle ∧
      (presents halted 0x0C000000).host = .command 0x0C000000 :: [] ∧ (presents halted 0x0C000000).err ≠ 0 := by decide
theorem witness_FaultPriority_illegal :
    (presents ready 0x00000000).activity = .idle ∧
      (presents ready 0x00000000).host = .command 0x00000000 :: [] ∧ (presents ready 0x00000000).err = 0 ∧
      decode 0x00000000 = .error .undefinedOpcode := ⟨rfl, rfl, rfl, rfl⟩
theorem witness_FaultPriority_checks :
    (presents State.reset 0x0B000000).activity = .idle ∧
      (presents State.reset 0x0B000000).host = .command 0x0B000000 :: [] ∧
      (presents State.reset 0x0B000000).err = 0 ∧ decode 0x0B000000 = .ok (.run 0) ∧
      firstFault (.run 0) (presents State.reset 0x0B000000) = some .configurationError := ⟨rfl, rfl, rfl, rfl, rfl⟩
theorem witness_FaultPriority_none :
    (presents ready 0x01E0FFFF).activity = .idle ∧
      (presents ready 0x01E0FFFF).host = .command 0x01E0FFFF :: [] ∧ (presents ready 0x01E0FFFF).err = 0 ∧
      decode 0x01E0FFFF = .ok (.ldi 7 0xFFFF) ∧ firstFault (.ldi 7 0xFFFF) (presents ready 0x01E0FFFF) = none :=
  ⟨rfl, rfl, rfl, rfl, rfl⟩

theorem witness_FaultsArePrecise :
    ready.ready = true ∧ exec .rate ready = .next (ready.raise .divisionByZero 0x0C000000) ∧
      (ready.raise .divisionByZero 0x0C000000).err ≠ 0 := ⟨rfl, rfl, by decide⟩

theorem witness_IllegalWordFaults :
    (presents ready 0xFFFFFFFF).ready = true ∧ (presents ready 0xFFFFFFFF).host = .command 0xFFFFFFFF :: [] ∧
      decode 0xFFFFFFFF = .error .undefinedOpcode := ⟨rfl, rfl, rfl⟩

theorem witness_HaltedUntilReset :
    (presents halted 0x00000000).err ≠ 0 ∧ (presents halted 0x00000000).activity = .idle ∧
      (presents halted 0x00000000).host = .command 0x00000000 :: [] ∧
      (presents halted 0x00000000).nextIsNoReset = true := by decide
theorem witness_HaltedUntilReset_step : step (presents halted 0x00000000) = .next halted := by rfl

theorem witness_ResetFromEveryState : { waiting with host := [.reset] }.host = .reset :: [] := rfl
theorem witness_ResetDuringCommand :
    { ready with host := [.commandCutByReset 0x0A000000 3] }.host = .commandCutByReset 0x0A000000 3 :: [] := rfl

theorem witness_ResetDuringCommand_part : -- TRIAL has 8 draws, the source 8 answers
    wordTableDraws 0x0A000000 ready = 8 ∧ ready.source.canAnswer (min 3 8) = true ∧
      ready.source.canAnswer (min 9 8) = true := by decide
theorem witness_ResetDuringCommand_silent : -- RUN 2 has 16 draws, the source 8 answers
    wordTableDraws 0x0B000002 ready = 16 ∧ ready.source.canAnswer (min 9 16) = false := by decide
theorem witness_ResetDuringCommand_none :
    wordTableDraws 0x0A000000 halted = 0 ∧ wordTableDraws 0x0A000001 ready = 0 ∧
      wordTableDraws 0x0A000000 (ready.setGen 0) = 0 := by decide

theorem witness_StepKeepsTheRegisterRules :
    (presents ready 0x0C000000).Inv ∧
      step (presents ready 0x0C000000) = .next (ready.raise .divisionByZero 0x0C000000) := ⟨by decide, rfl⟩
theorem witness_StepKeepsTheWaitingRule :
    (presents { ready with source := ⟨[], 0, true⟩ } 0x0A000000).WaitInv ∧
      step (presents { ready with source := ⟨[], 0, true⟩ } 0x0A000000) =
        .next { ready with source := ⟨[], 0, true⟩, activity := .waiting } := ⟨by decide, rfl⟩

theorem witness_SilentSourceIsStuckUntilReset_command :
    ready.ready = true ∧ ready.status.halt = false ∧ firstFault (.run 2) ready = none ∧
      ready.source.canAnswer (tableDraws (.run 2) ready) = false := by decide
theorem witness_SilentSourceIsStuckUntilReset_stuck :
    waiting.activity = .waiting ∧ waiting.nextIsNoReset = true := by decide

theorem witness_ReadPortSelects : halted.activity = .idle ∧ 17 ≤ (17 : Select).toNat := by decide
theorem witness_DegreeIsHighestExponent : (0x8000 : Poly) ≠ 0 := by decide
theorem witness_RemainderIsItsOwnRemainder : deg 0x0005 < deg 0x000B := by decide
theorem witness_RemainderDiffersByMultiple : Divisor.deg ⟨0x000B, by decide⟩ + 12 ≤ 15 := by decide

theorem witness_LdiLoadsImmediate :
    ready.ready = true ∧ fieldOp 0x01210006 = 0x01 ∧ (0x01210006 : CmdWord).extractLsb' 16 5 ≠ 0 := by decide
theorem witness_DegWritesDegree :
    ready.ready = true ∧ ready.readX 0 = 0 ∧ (ready.writeX 0 1).readX 0 = 1 ∧ 0x8000 ≤ (ready.readX 7).toNat := by
  decide
theorem witness_ModWritesRemainder : ready.ready = true ∧ ready.readX 1 ≠ 0 ∧ ready.readX 0 = 0 := by decide
theorem witness_SetgSetsGenerator : ready.ready = true := by decide
theorem witness_SetpSetsThreshold :
    ready.ready = true ∧ (0x010000 : BitVec 24).toNat ≤ 0x010000 ∧ 0x010000 < (0x010001 : BitVec 24).toNat := by decide
theorem witness_SetpSetsThreshold_only :
    ready.ready = true ∧ FaultsWith (.setp 0x010001) ready .invalidProbability :=
  ⟨rfl, _, rfl, rfl, rfl, rfl, fun _ => rfl, ⟨rfl, rfl, rfl⟩, ⟨rfl, rfl⟩, ⟨rfl, rfl, rfl⟩, ⟨rfl, rfl, rfl⟩⟩
theorem witness_SetkSetsWidth :
    ready.ready = true ∧ (16 : BitVec 24).toNat ≤ 16 ∧ 16 < (17 : BitVec 24).toNat := by decide

theorem witness_EncWritesCodeword_fits :
    ready.gen ≠ 0 ∧ ready.ready = true ∧ deg (ready.readX 2) + deg ready.gen ≤ 15 ∧ ready.readX 0 = 0 := by decide
theorem witness_EncWritesCodeword_longest :
    deg ((ready.writeX 2 0x1FFF).readX 2) + deg (ready.writeX 2 0x1FFF).gen = 15 := by decide
theorem witness_EncWritesCodeword_noGenerator :
    (ready.setGen 0).ready = true ∧ (ready.setGen 0).gen = 0 := by decide
theorem witness_EncWritesCodeword_range :
    (ready.writeX 2 0x2000).ready = true ∧ (ready.writeX 2 0x2000).gen ≠ 0 ∧ (ready.writeX 2 0x2000).readX 2 ≠ 0 ∧
      15 < deg ((ready.writeX 2 0x2000).readX 2) + deg (ready.writeX 2 0x2000).gen := by decide
theorem witness_CodewordLayout : deg 0x1FFF + deg 0x000B ≤ 15 ∧ (0x1FFF : Poly) ≠ 0 := by decide
theorem witness_CodewordLayout_degreeZero : deg 0xFFFF + deg 1 ≤ 15 := by decide
theorem witness_CodewordsLeaveNoRemainder : deg 0x0006 + deg 0x000B ≤ 15 ∧ deg 0x1FFF + deg 0x000B ≤ 15 := by decide

theorem witness_ErrorPatternOfTransmission :
    (List.replicate 16 (0x8000 : Draw)).length ≤ 16 ∧ 15 < (List.replicate 16 (0x8000 : Draw)).length := by decide
theorem witness_ErrorPatternOfTransmission_atThreshold : -- V5 row 3: a draw equal to the threshold flips
    transmit 0x0E666 (0xE666 :: List.replicate 6 0) 0x0031 = (0x0071, true) := by decide
theorem witness_ErrorPatternOfTransmission_belowThreshold : -- V5 row 2: one below does not
    transmit 0x0E666 (List.replicate 7 0xE665) 0x0031 = (0x0031, false) := by decide
theorem witness_CertainChannels : ([] : List Draw).length ≤ 16 ∧ (List.replicate 16 (0 : Draw)).length ≤ 16 := by decide
theorem witness_TxSendsWord :
    channel.ready = true ∧ (7 : BitVec 5).toNat ≤ 16 ∧ channel.readX 3 >>> (7 : BitVec 5).toNat = 0 ∧
      channel.sent ≠ 0xFFFFFFFF ∧
      channel.source.take (7 : BitVec 5).toNat =
        some ([0x1000, 0x2000, 0xF000, 0x3000, 0x4000, 0x5000, 0x6000], ⟨[], 7, true⟩) := by decide
theorem witness_TxSendsWord_widest : (16 : BitVec 5).toNat ≤ 16 ∧ channel.readX 7 >>> (16 : BitVec 5).toNat = 0 := by decide
theorem witness_TxSendsWord_width : channel.ready = true ∧ 16 < (17 : BitVec 5).toNat := by decide
theorem witness_TxSendsWord_word :
    channel.ready = true ∧ (5 : BitVec 5).toNat ≤ 16 ∧ channel.readX 3 >>> (5 : BitVec 5).toNat ≠ 0 := by decide
theorem witness_TxSendsWord_counter :
    (channel.setSent 0xFFFFFFFF).ready = true ∧ (7 : BitVec 5).toNat ≤ 16 ∧
      (channel.setSent 0xFFFFFFFF).readX 3 >>> (7 : BitVec 5).toNat = 0 ∧
      (channel.setSent 0xFFFFFFFF).sent = 0xFFFFFFFF := by decide
theorem witness_DrawsPerCommand :
    ready.ready = true ∧ firstFault .trial ready = none ∧
      ready.source.canAnswer (tableDraws .trial ready) = true := by decide

theorem witness_DrawsPerCommand_none :
    halted.ready = false ∧ exec .trial halted = .next halted ∧ (firstFault .rate ready).isSome = true ∧
      exec .rate ready = .next (ready.raise .divisionByZero 0x0C000000) := ⟨rfl, rfl, rfl, rfl⟩
theorem witness_LaterDrawsHaveNoPart :
    ready.ready = true ∧ firstFault .trial ready = none ∧ tableDraws .trial ready ≤ ready.source.answers.length ∧
      ∃ t, exec .trial ready = .next t := ⟨rfl, rfl, by decide, _, rfl⟩

theorem witness_DecChecksAndStrips : ready.gen ≠ 0 ∧ ready.ready = true ∧ ready.det ≠ 0xFFFFFFFF := by decide
theorem witness_DecChecksAndStrips_noGenerator :
    (ready.setGen 0).ready = true ∧ (ready.setGen 0).gen = 0 := by decide
theorem witness_DecChecksAndStrips_counter :
    (ready.setDet 0xFFFFFFFF).ready = true ∧ (ready.setDet 0xFFFFFFFF).gen ≠ 0 ∧
      (ready.setDet 0xFFFFFFFF).det = 0xFFFFFFFF := by decide
theorem witness_SyndromeSeesOnlyTheErrorPattern : deg 0x0006 + deg 0x000B ≤ 15 := by decide
theorem witness_SingleBitErrorsAreDetected :
    deg 0x0006 + deg 0x000B ≤ 15 ∧ 15 < 16 ∧ (0x000B : Poly).getLsbD 0 = true ∧ (0x000B : Poly) ≠ 1 := by decide

theorem witness_TrialRunsOneTrial :
    ready.gen ≠ 0 ∧ ready.ready = true ∧ (ready.kw.toNat : Int) + deg ready.gen ≤ 16 ∧
      ready.sent ≠ 0xFFFFFFFF ∧ ready.det ≠ 0xFFFFFFFF ∧
      ready.source.take (1 + (ready.kw.toNat + (deg ready.gen).toNat)) =
        some (0x6ABC :: [0x1000, 0x2000, 0xF000, 0x3000, 0x4000, 0x5000, 0x6000], ⟨[], 8, true⟩) := by decide
theorem witness_TrialRunsOneTrial_noGenerator :
    (ready.setGen 0).ready = true ∧ (ready.setGen 0).gen = 0 := by decide
theorem witness_TrialRunsOneTrial_range :
    (ready.setKw 14).ready = true ∧ (ready.setKw 14).gen ≠ 0 ∧
      16 < ((ready.setKw 14).kw.toNat : Int) + deg (ready.setKw 14).gen := by decide
theorem witness_TrialRunsOneTrial_counter :
    (ready.setSent 0xFFFFFFFF).ready = true ∧ (ready.setSent 0xFFFFFFFF).gen ≠ 0 ∧
      ((ready.setSent 0xFFFFFFFF).kw.toNat : Int) + deg (ready.setSent 0xFFFFFFFF).gen ≤ 16 ∧
      (ready.setSent 0xFFFFFFFF).sent = 0xFFFFFFFF := by decide
theorem witness_RunRunsItsTrials :
    ready.ready = true ∧ ready.gen ≠ 0 ∧ (1 : BitVec 24) ≠ 0 ∧ (ready.kw.toNat : Int) + deg ready.gen ≤ 16 ∧
      ready.sent.toNat + (1 : BitVec 24).toNat ≤ 0xFFFFFFFF ∧ ready.det.toNat + (1 : BitVec 24).toNat ≤ 0xFFFFFFFF ∧
      ready.source.canAnswer ((1 : BitVec 24).toNat * (1 + ready.kw.toNat + (deg ready.gen).toNat)) = true := by decide
theorem witness_RunRunsItsTrials_noGenerator : (ready.setGen 0).ready = true ∧ (ready.setGen 0).gen = 0 := by decide
theorem witness_RunRunsItsTrials_zero : ready.ready = true ∧ ready.gen ≠ 0 ∧ (0 : BitVec 24) = 0 := by decide
theorem witness_RunRunsItsTrials_range :
    (ready.setKw 14).ready = true ∧ (ready.setKw 14).gen ≠ 0 ∧
      16 < ((ready.setKw 14).kw.toNat : Int) + deg (ready.setKw 14).gen := by decide
theorem witness_RunRunsItsTrials_counter :
    (ready.setDet 0xFFFFFFFD).ready = true ∧ (ready.setDet 0xFFFFFFFD).gen ≠ 0 ∧ (3 : BitVec 24) ≠ 0 ∧
      ((ready.setDet 0xFFFFFFFD).kw.toNat : Int) + deg (ready.setDet 0xFFFFFFFD).gen ≤ 16 ∧
      0xFFFFFFFF < (ready.setDet 0xFFFFFFFD).det.toNat + (3 : BitVec 24).toNat := by decide

/-- A state whose source goes on with free values answers any number of draws. -/
def freeSource : State := { ready with source := ⟨[], 0, false⟩ }

theorem witness_ConsecutiveRunsAdd :
    freeSource.ready = true ∧ (1 : BitVec 24) ≠ 0 ∧ (2 : BitVec 24) ≠ 0 ∧
      (1 : BitVec 24).toNat + (2 : BitVec 24).toNat < 2 ^ 24 ∧ firstFault (.run (1 + 2)) freeSource = none ∧
      freeSource.source.canAnswer (tableDraws (.run (1 + 2)) freeSource) = true := by decide
theorem witness_TrialsKeepDetAtMostSent : ready.det.toNat ≤ ready.sent.toNat := by decide
theorem witness_TrialsKeepDetAtMostSent_trial : ∃ t, exec .trial ready = .next t := ⟨_, rfl⟩
theorem witness_TrialsKeepDetAtMostSent_run : ∃ t, exec (.run 1) ready = .next t := ⟨_, rfl⟩
theorem witness_TrialsKeepDetAtMostSent_step :
    (presents ready 0x0A000000).host = .command 0x0A000000 :: [] ∧ decode 0x0A000000 = .ok .trial ∧
      transmissions .trial = decodes .trial ∧ ∃ t, step (presents ready 0x0A000000) = .next t := ⟨rfl, rfl, rfl, _, rfl⟩
theorem witness_NoiselessRunsCountNothing :
    (ready.setProb 0x10000).prob = 0x10000 ∧ ∃ t, exec (.run 1) (ready.setProb 0x10000) = .next t := ⟨rfl, _, rfl⟩
theorem witness_TrialAgreesWithSingleCommands :
    ready.ready = true ∧ firstFault .trial ready = none ∧
      ready.source.canAnswer (tableDraws .trial ready) = true ∧
      ready.source.draw = some (0x6ABC, ⟨[0x1000, 0x2000, 0xF000, 0x3000, 0x4000, 0x5000, 0x6000], 1, true⟩) := by decide
theorem witness_InfowordIsTopBits : 0 ≤ 16 ∧ 16 ≤ 16 := by decide
theorem witness_RateAsksForErrorsSent :
    (ready.setSent 1).ready = true ∧ (ready.setSent 1).sent ≠ 0 ∧ ready.ready = true ∧ ready.sent = 0 := by decide

theorem witness_WriteMatrix : exec (.ldi 7 0x1234) ready = .next (ready.writeX 7 0x1234) := by rfl
theorem witness_WriteMatrix_fault : (ready.raise .divisionByZero 0x0C000000).err ≠ ready.err := by decide
theorem witness_CountersOnlyGrow : ∃ t, exec (.tx 4 3 7) channel = .next t := ⟨_, rfl⟩
theorem witness_NoCommandReadsFlags :
    SameButFlags ready (ready.setSyn 5) ∧ exec (.ldi 7 0x1234) ready = .next (ready.writeX 7 0x1234) :=
  ⟨⟨fun _ => rfl, ⟨rfl, rfl, rfl⟩, ⟨rfl, rfl⟩, ⟨rfl, rfl, rfl⟩, ⟨rfl, rfl, rfl⟩⟩, rfl⟩
theorem witness_NoCommandReadsFlags_written :
    SameButFlags ready (ready.setSyn 5) ∧ ready.ready = true ∧ firstFault .trial ready = none ∧
      0 < transmissions .trial ∧ 0 < decodes .trial ∧ ∃ t, exec .trial ready = .next t ∧ t.activity = .idle :=
  ⟨witness_NoCommandReadsFlags.1, rfl, rfl, by decide, by decide, _, rfl, rfl⟩

end Sys2Proof.Tests
end

section
/-! The state after reset (`10_state.md` R44) and the read port (R38): what they hold and
answer, and the statements O15 and O23. -/

namespace Sys2Proof.Machine

/-- The reset state is what a reset of itself leaves, so `State.resetEngine_readX` speaks of it. -/
@[simp] theorem State.reset_readX (r : RegNum) : State.reset.readX r = 0 :=
  State.reset.resetEngine_readX r

/-- Settles O15: the general registers by `State.reset_readX`, the other registers by the reset state's fields. -/
theorem resetValues : Obligations.ResetValues :=
  ⟨State.reset_readX, rfl, rfl, rfl, rfl, rfl, rfl, rfl, rfl, rfl, rfl, rfl⟩

theorem State.readPort_of_idle {s : State} (h : s.activity = .idle) (sel : Select) :
    s.readPort sel = some (s.selected sel) := by
  simp [State.readPort, h]

/-- The five-bit selects 0 to 7 are the register numbers (R38): widening and then naming the register gives it back. -/
theorem State.selected_regNum (s : State) (r : RegNum) :
    s.selected (r.setWidth 5) = (s.readX r).setWidth 32 := by
  have hr : r.toNat < 8 := r.isLt
  have hsel : (r.setWidth 5).toNat = r.toNat := BitVec.toNat_setWidth_of_le (by decide)
  unfold State.selected
  rw [hsel]
  split
  case h_10 => rw [if_pos hr, BitVec.ofNat_toNat, BitVec.setWidth_eq]
  all_goals omega

theorem State.selected_of_seventeen_le (s : State) {sel : Select} (h : 17 ≤ sel.toNat) : s.selected sel = 0 := by
  unfold State.selected
  split
  case h_10 => exact if_neg (by omega)
  all_goals omega

/-- Settles O23: an idle engine answers the selected register; selects 8 to 16 name theirs by definition, and the two
ranges are `State.selected_regNum` and `State.selected_of_seventeen_le`. -/
theorem readPortSelects : Obligations.ReadPortSelects := by
  intro s hidle
  have hport := State.readPort_of_idle hidle
  refine ⟨fun r => ?_, hport 8, hport 9, hport 10, hport 11, hport 12, hport 13, hport 14, hport 15, hport 16,
    fun sel hsel => ?_⟩
  · rw [hport, s.selected_regNum]
  · rw [hport, s.selected_of_seventeen_le hsel]

end Sys2Proof.Machine
end

section
/-! Degree and remainder of polynomials over GF(2) (`40_polynomial.md` R121 to R124), and the statements O25 and O26. -/

namespace Sys2Proof.Machine

/-! ### The degree by its top coefficient -/

theorem deg_eq_iff (v : Poly) (i : Nat) :
    deg v = i ↔ v.getLsbD i = true ∧ ∀ j, i < j → v.getLsbD j = false := by
  have below := deg_lt_iff v i
  have upTo := deg_lt_iff v (i + 1)
  constructor
  · intro h
    have above : ∀ j, i < j → v.getLsbD j = false := upTo.1 (by omega)
    refine ⟨?_, above⟩
    by_contra hbit
    have hlt : deg v < i := below.2 fun j hj => by
      rcases Nat.eq_or_lt_of_le hj with rfl | hij
      · simpa using hbit
      · exact above j hij
    omega
  · rintro ⟨hbit, above⟩
    have hle : deg v < (i + 1 : Nat) := upTo.2 above
    have hge : ¬ deg v < i := fun hlt => by simp [below.1 hlt i le_rfl] at hbit
    omega

theorem exists_deg_eq {v : Poly} (h : v ≠ 0) : ∃ i : Nat, i < 16 ∧ deg v = i := by
  have hlo := deg_nonneg_of_ne_zero h
  have hhi := deg_le_fifteen v
  exact ⟨(deg v).toNat, by omega, by omega⟩

theorem deg_zero : deg 0 = -1 := by decide

/-- Settles O25: a nonzero value has a natural degree below 16, and `deg_eq_iff` says what that is of its bits. -/
theorem degreeIsHighestExponent : Obligations.DegreeIsHighestExponent := by
  refine ⟨deg_zero, fun v hv => ?_⟩
  obtain ⟨i, hi, hdeg⟩ := exists_deg_eq hv
  obtain ⟨hbit, above⟩ := (deg_eq_iff v i).1 hdeg
  exact ⟨i, hi, hdeg, hbit, above⟩

/-! ### One turn of the division loop lowers the degree (R124 facts 1 and 2) -/

/-- Multiplying by `x^k` adds `k` to the degree when no coefficient is shifted out. -/
theorem deg_shiftLeft {b : Poly} {d k : Nat} (hb : deg b = d) (hk : d + k < 16) :
    deg (b <<< k) = (d + k : Nat) := by
  obtain ⟨hbit, above⟩ := (deg_eq_iff b d).1 hb
  rw [deg_eq_iff]
  simp only [BitVec.getLsbD_shiftLeft]
  refine ⟨by simp [hk, hbit], fun j hj => ?_⟩
  simp [above (j - k) (by omega)]

/-- The top coefficients of two polynomials of equal degree cancel. -/
theorem deg_xor_lt {a c : Poly} {i : Nat} (ha : deg a = i) (hc : deg c = i) : deg (a ^^^ c) < i := by
  obtain ⟨abit, aabove⟩ := (deg_eq_iff a i).1 ha
  obtain ⟨cbit, cabove⟩ := (deg_eq_iff c i).1 hc
  refine (deg_lt_iff _ i).2 fun j hj => ?_
  rw [BitVec.getLsbD_xor]
  rcases Nat.eq_or_lt_of_le hj with rfl | hij
  · simp [abit, cbit]
  · simp [aabove j hij, cabove j hij]

theorem deg_xor_aligned_lt {b rem : Poly} (hb : b ≠ 0) (h : deg b ≤ deg rem) :
    deg (rem ^^^ (b <<< (deg rem - deg b).toNat)) < deg rem := by
  have hb0 := deg_nonneg_of_ne_zero hb
  have hr15 := deg_le_fifteen rem
  obtain ⟨d, hd⟩ := Int.eq_ofNat_of_zero_le hb0
  obtain ⟨i, hi⟩ := Int.eq_ofNat_of_zero_le (hb0.trans h)
  have hshift : (deg rem - deg b).toNat = i - d := by omega
  have haligned : deg (b <<< (i - d)) = i := by
    rw [deg_shiftLeft hd (by omega)]
    omega
  rw [hshift, hi]
  exact deg_xor_lt hi haligned

/-! ### The division loop with enough turns (R123) -/

theorem divisionLoop_of_deg_lt {b rem : Poly} (h : deg rem < deg b) (n : Nat) : divisionLoop b n rem = rem := by
  cases n with
  | zero => rfl
  | succ n => exact if_neg (not_le.2 h)

theorem divisionLoop_of_deg_le {b rem : Poly} (h : deg b ≤ deg rem) (n : Nat) :
    divisionLoop b (n + 1) rem = divisionLoop b n (rem ^^^ (b <<< (deg rem - deg b).toNat)) :=
  if_pos h

/-- `n` turns are enough for a value whose degree is less than `n` above the divisor's: one more turn changes nothing. -/
theorem divisionLoop_succ {b : Poly} (hb : b ≠ 0) (n : Nat) :
    ∀ {rem : Poly}, deg rem < deg b + n → divisionLoop b (n + 1) rem = divisionLoop b n rem := by
  induction n with
  | zero =>
    intro rem h
    have hlt : deg rem < deg b := by omega
    rw [divisionLoop_of_deg_lt hlt, divisionLoop_of_deg_lt hlt]
  | succ n ih =>
    intro rem h
    rcases lt_or_ge (deg rem) (deg b) with hlt | hle
    · rw [divisionLoop_of_deg_lt hlt, divisionLoop_of_deg_lt hlt]
    · have hdrop := deg_xor_aligned_lt hb hle
      rw [divisionLoop_of_deg_le hle, divisionLoop_of_deg_le hle, ih (by omega)]

theorem deg_divisionLoop_lt {b : Poly} (hb : b ≠ 0) (n : Nat) :
    ∀ {rem : Poly}, deg rem < deg b + n → deg (divisionLoop b n rem) < deg b := by
  induction n with
  | zero =>
    intro rem h
    simpa [divisionLoop] using h
  | succ n ih =>
    intro rem h
    rcases lt_or_ge (deg rem) (deg b) with hlt | hle
    · rwa [divisionLoop_of_deg_lt hlt]
    · have hdrop := deg_xor_aligned_lt hb hle
      rw [divisionLoop_of_deg_le hle]
      exact ih (by omega)

/-! ### The remainder -/

/-- R124 fact 3. -/
theorem deg_gf2mod_lt (a : Poly) (b : Divisor) : deg (gf2mod a b) < deg b.val := by
  have hb0 := deg_nonneg_of_ne_zero b.property
  have ha := deg_le_fifteen a
  exact deg_divisionLoop_lt b.property 16 (by omega)

/-- R124 fact 4. -/
theorem gf2mod_of_deg_lt {a : Poly} {b : Divisor} (h : deg a < deg b.val) : gf2mod a b = a :=
  divisionLoop_of_deg_lt h 16

/-- The remainder is unchanged by one turn of the loop: after it, fifteen turns are as good as sixteen. -/
theorem gf2mod_of_deg_le {a : Poly} {b : Divisor} (h : deg b.val ≤ deg a) :
    gf2mod a b = gf2mod (a ^^^ (b.val <<< (deg a - deg b.val).toNat)) b := by
  have hb0 := deg_nonneg_of_ne_zero b.property
  have ha := deg_le_fifteen a
  have hdrop := deg_xor_aligned_lt b.property h
  exact (divisionLoop_of_deg_le h 15).trans (divisionLoop_succ b.property 15 (by omega)).symm

/-- Settles O26: the two branches of the loop's equation, and the bound on the degree. -/
theorem remainderFollowsTheLoop : Obligations.RemainderFollowsTheLoop := by
  intro a b
  refine ⟨?_, deg_gf2mod_lt a b⟩
  split
  case isTrue h => exact gf2mod_of_deg_le h
  case isFalse h => exact gf2mod_of_deg_lt (not_le.1 h)

end Sys2Proof.Machine
end

section
/-! How the decoder answers a command's own word and a word with a must-be-zero bit set (`30_encoding.md` R95 to R97). -/

namespace Sys2Proof.Laws

/-! ### A command's own word -/

theorem rows_mnemonics_nodup : (rows.map (·.mnemonic)).Nodup := by
  simp [rows]

/-- A command is read back from its word when the row of its mnemonic builds it from there. -/
theorem decode_encode_of_row {i : Instr} (hword : TableRow.Statement i) {r : Row} (hr : r ∈ rows)
    (hname : r.mnemonic = i.written.mnemonic) (hbuild : r.build (encode i) = i) : decode (encode i) = .ok i := by
  obtain ⟨q, hq, hqname, hhits⟩ := hword
  have hqr : q = r := List.inj_on_of_nodup_map rows_mnemonics_nodup hq hr (hqname.trans hname.symm)
  rw [decode_of_hits q hq _ hhits, hqr, hbuild]

theorem decode_encode_ldi (rd : RegNum) (imm16 : BitVec 16) :
    decode (encode (.ldi rd imm16)) = .ok (.ldi rd imm16) :=
  decode_encode_of_row (TableRow.ldi rd imm16) (r := rows[0]) (List.getElem_mem _) rfl (by simp [rows, encode])

theorem decode_encode_deg (rd rs1 : RegNum) : decode (encode (.deg rd rs1)) = .ok (.deg rd rs1) :=
  decode_encode_of_row (TableRow.deg rd rs1) (r := rows[1]) (List.getElem_mem _) rfl (by simp [rows, encode])

theorem decode_encode_mod (rd rs1 rs2 : RegNum) : decode (encode (.mod rd rs1 rs2)) = .ok (.mod rd rs1 rs2) :=
  decode_encode_of_row (TableRow.mod rd rs1 rs2) (r := rows[2]) (List.getElem_mem _) rfl (by simp [rows, encode])

/-! ### Format R with its unused low fields written as one (R91) -/

theorem formatR_rs1_last (op : BitVec 8) (rd rs1 : RegNum) : formatR op rd rs1 0 0 = op ++ rd ++ rs1 ++ 0#18 := by
  apply BitVec.eq_of_getLsbD_eq
  intro j hj
  simp only [formatR, BitVec.getLsbD_append]
  interval_cases j <;> simp

theorem formatR_rs2_last (op : BitVec 8) (rd rs1 rs2 : RegNum) :
    formatR op rd rs1 rs2 0 = op ++ rd ++ rs1 ++ rs2 ++ 0#15 := by
  apply BitVec.eq_of_getLsbD_eq
  intro j hj
  simp only [formatR, BitVec.getLsbD_append]
  interval_cases j <;> simp

/-! ### A must-be-zero bit that is 1 (R97) -/

/-- A word with a row's opcode that the row does not match is no command: no other row has that opcode. -/
theorem decode_mbzNotZero {r : Row} (hr : r ∈ rows) {c : CmdWord} (hop : fieldOp c = fieldOp r.pattern)
    (hmiss : r.hits c = false) : decode c = .error .mbzNotZero := by
  have hnone : rows.find? (·.hits c) = none := List.find?_eq_none.2 fun q hq hhits => by
    have hqr : q = r := List.inj_on_of_nodup_map rows_opcodes_nodup hq hr
      ((fieldOp_of_hits q hq c hhits).symm.trans hop)
    rw [hqr, hmiss] at hhits
    cases hhits
  have hany : rows.any (fun r => fieldOp r.pattern == fieldOp c) = true :=
    List.any_eq_true.2 ⟨r, hr, by simp [hop]⟩
  unfold decode
  rw [hnone]
  exact if_pos hany

/-- Bits 20:16 must be zero in a word of `LDI`. -/
theorem ldi_row_misses {c : CmdWord} (h : c.extractLsb' 16 5 ≠ 0) : rows[0].hits c = false := by
  by_contra hhits
  have hmatch : c &&& 0xFF1F0000#32 = 0x01000000#32 := by simpa [rows, Row.hits] using hhits
  apply h
  calc c.extractLsb' 16 5 = c.extractLsb' 16 5 &&& (0xFF1F0000#32).extractLsb' 16 5 := BitVec.and_allOnes.symm
    _ = (c &&& 0xFF1F0000#32).extractLsb' 16 5 := BitVec.extractLsb'_and.symm
    _ = 0 := by rw [hmatch]; rfl

end Sys2Proof.Laws
end

section
/-! The commands LDI, DEG and MOD (`40_polynomial.md` R126 to R128): the statements O30, O31 and O32. -/

namespace Sys2Proof.Machine

/-! ### What a write to a general register and a failed check leave as they were -/

theorem State.writeX_frame (s : State) (rd : RegNum) (v : Poly) :
    SameRegsBut rd s (s.writeX rd v) ∧ SameConfig s (s.writeX rd v) ∧ SameCounters s (s.writeX rd v) ∧
      SameFlags s (s.writeX rd v) ∧ SameFault s (s.writeX rd v) ∧ SameInputs s (s.writeX rd v) :=
  ⟨fun q h => s.readX_writeX_other rd q v h, ⟨rfl, rfl, rfl⟩, ⟨rfl, rfl⟩, ⟨rfl, rfl, rfl⟩, ⟨rfl, rfl, rfl⟩,
    ⟨rfl, rfl, rfl⟩⟩

/-- A command whose check fails in a ready engine faults precisely (R208, R209). -/
theorem faultsWith_of_checks_error {α : Type} {i : Instr} {s : State} {checks : Except Cause α} {effect : α → State}
    {f : Cause} (hexec : exec i s = s.runCommand i checks effect) (hr : s.ready = true) (hc : checks = .error f) :
    FaultsWith i s f :=
  ⟨_, hexec.trans (State.runCommand_error s i checks effect hr hc), rfl, rfl, rfl, fun _ => rfl, ⟨rfl, rfl, rfl⟩,
    ⟨rfl, rfl⟩, ⟨rfl, rfl, rfl⟩, ⟨rfl, rfl, rfl⟩⟩

/-! ### LDI -/

/-- Settles O30: the word by `decode_encode_ldi` and `decode_mbzNotZero`, the effect by `State.writeX_frame`. -/
theorem ldiLoadsImmediate : Obligations.LdiLoadsImmediate := by
  intro rd imm16
  refine ⟨Laws.decode_encode_ldi rd imm16, fun c hop hmbz => ?_, fun s hr => ?_⟩
  · have hrow : fieldOp c = fieldOp rows[0].pattern := hop.trans (by decide)
    exact Laws.decode_mbzNotZero (List.getElem_mem _) hrow (Laws.ldi_row_misses hmbz)
  · exact ⟨s.writeX rd imm16, (exec_ldi s rd imm16).trans (State.runCommand_ok _ _ _ _ hr rfl),
      s.readX_writeX_self rd imm16, s.writeX_frame rd imm16⟩

/-! ### DEG -/

theorem degreeWord_zero : degreeWord 0 = 0xFFFF := by decide

theorem degreeWord_one : degreeWord 1 = 0 := by decide

theorem degreeWord_of_deg_eq {v : Poly} {i : Nat} (h : deg v = i) : degreeWord v = BitVec.ofNat 16 i := by
  rw [degreeWord, h, BitVec.ofInt_natCast]

theorem deg_of_top_bit {v : Poly} (h : 0x8000 ≤ v.toNat) : deg v = (15 : Nat) := by
  have hmsb : v.msb = true := by rw [BitVec.msb_eq_decide]; exact decide_eq_true h
  exact (deg_eq_iff v 15).2 ⟨hmsb, fun j hj => BitVec.getLsbD_of_ge v j hj⟩

/-- The sentinel is the only degree word with bit 15 set: every other degree is below 16. -/
theorem degreeWord_of_bit_15 {v : Poly} (h : (degreeWord v).getLsbD 15 = true) : degreeWord v = 0xFFFF := by
  by_cases hv : v = 0
  · rw [hv, degreeWord_zero]
  · obtain ⟨i, hi, hdeg⟩ := exists_deg_eq hv
    have hclear : i.testBit 15 = false := Nat.testBit_lt_two_pow (by omega)
    rw [degreeWord_of_deg_eq hdeg, BitVec.getLsbD_ofNat, hclear] at h
    simp at h

/-- Settles O31: `x[rd]` is the degree word of `x[rs1]`, whose corner cases are the lemmas above. -/
theorem degWritesDegree : Obligations.DegWritesDegree := by
  intro rd rs1
  refine ⟨?_, fun s hr => ?_⟩
  · rw [← Laws.formatR_rs1_last]
    exact Laws.decode_encode_deg rd rs1
  · have hread := s.readX_writeX_self rd (degreeWord (s.readX rs1))
    refine ⟨_, (exec_deg s rd rs1).trans (State.runCommand_ok _ _ _ _ hr rfl), hread, ?_, ?_, ?_, ?_,
      s.writeX_frame rd _⟩ <;> rw [hread]
    · intro h; rw [h, degreeWord_zero]
    · intro h; rw [h, degreeWord_one]
    · intro h; exact degreeWord_of_deg_eq (deg_of_top_bit h)
    · exact degreeWord_of_bit_15

/-! ### MOD -/

/-- Settles O32: the check is that of `divisor`, and what is written is the remainder. -/
theorem modWritesRemainder : Obligations.ModWritesRemainder := by
  intro rd rs1 rs2
  refine ⟨?_, fun s hb hr => ?_, fun s hr hzero => ?_⟩
  · rw [← Laws.formatR_rs2_last]
    exact Laws.decode_encode_mod rd rs1 rs2
  · have hchecks := divisor_ne_zero (s.readX rs2) .divisionByZero hb
    exact ⟨_, (exec_mod s rd rs1 rs2).trans (State.runCommand_ok _ _ _ _ hr hchecks), s.readX_writeX_self rd _,
      s.writeX_frame rd _⟩
  · have hchecks : divisor (s.readX rs2) .divisionByZero = .error .divisionByZero := by
      rw [hzero]
      exact divisor_zero .divisionByZero
    exact faultsWith_of_checks_error (exec_mod s rd rs1 rs2) hr hchecks

end Sys2Proof.Machine
end

section
/-! The words of SETG, SETP and SETK (`30_encoding.md` R95) and the causes that each command's checks can give
(`60_exceptions.md` R212). -/

namespace Sys2Proof.Laws

theorem decode_encode_setg (rs1 : RegNum) : decode (encode (.setg rs1)) = .ok (.setg rs1) :=
  decode_encode_of_row (TableRow.setg rs1) (r := rows[3]) (List.getElem_mem _) rfl (by simp [rows, encode])

theorem decode_encode_setp (imm24 : BitVec 24) : decode (encode (.setp imm24)) = .ok (.setp imm24) :=
  decode_encode_of_row (TableRow.setp imm24) (r := rows[4]) (List.getElem_mem _) rfl (by simp [rows, encode])

theorem decode_encode_setk (imm24 : BitVec 24) : decode (encode (.setk imm24)) = .ok (.setk imm24) :=
  decode_encode_of_row (TableRow.setk imm24) (r := rows[5]) (List.getElem_mem _) rfl (by simp [rows, encode])

end Sys2Proof.Laws

namespace Sys2Proof.Machine

/-! ### The causes of the checks -/

theorem checks_eq_error {α β : Type} (first : Except Cause α) (rest : α → Except Cause β) (e : Cause) :
    (first >>= rest) = .error e ↔ first = .error e ∨ ∃ a, first = .ok a ∧ rest a = .error e := by
  cases first <;> simp

theorem divisor_eq_error (b : Poly) (f e : Cause) : divisor b f = .error e ↔ b = 0 ∧ e = f := by
  by_cases hb : b = 0
  · simp [hb, eq_comm]
  · rw [divisor_ne_zero b f hb]
    exact ⟨fun h => (nomatch h), fun h => absurd h.1 hb⟩

theorem cause_of_roomFor {c : Counter} {n : Nat} {e : Cause} (h : roomFor c n = .error e) : e = .counterOverflow :=
  ((check_eq_error _ _ e).1 h).2

/-- A single check with an answer: `thresholdOperand` and `widthOperand` are of this form. -/
theorem ite_error_eq_error {α : Type} (bad : Prop) [Decidable bad] (f e : Cause) (a : α) :
    (if bad then .error f else .ok a : Except Cause α) = .error e ↔ bad ∧ e = f := by
  split <;> simp_all [eq_comm]

theorem thresholdOperand_eq_error (v : BitVec 24) (e : Cause) :
    thresholdOperand v = .error e ↔ 65536 < v.toNat ∧ e = .invalidProbability :=
  ite_error_eq_error _ _ e _

theorem widthOperand_eq_error (v : BitVec 24) (e : Cause) :
    widthOperand v = .error e ↔ 16 < v.toNat ∧ e = .operandRange :=
  ite_error_eq_error _ _ e _

theorem cause_of_encChecks {gen m : Poly} {e : Cause} (h : encChecks gen m = .error e) :
    e = .configurationError ∨ e = .operandRange := by
  unfold encChecks at h
  rcases (checks_eq_error _ _ e).1 h with hgen | ⟨_, -, h⟩
  · exact .inl ((divisor_eq_error _ _ e).1 hgen).2
  rcases (checks_eq_error _ _ e).1 h with hfit | ⟨_, -, hdone⟩
  · exact .inr ((check_eq_error _ _ e).1 hfit).2
  · cases hdone

theorem cause_of_txChecks {s : State} {rs1 : RegNum} {w : BitVec 5} {e : Cause} (h : txChecks s rs1 w = .error e) :
    e = .operandRange ∨ e = .counterOverflow := by
  unfold txChecks transmissionOperands at h
  rcases (checks_eq_error _ _ e).1 h with hop | ⟨_, -, hroom⟩
  · rcases (checks_eq_error _ _ e).1 hop with hwidth | ⟨_, -, hword⟩
    · exact .inl ((check_eq_error _ _ e).1 hwidth).2
    · exact .inl ((check_eq_error _ _ e).1 hword).2
  · exact .inr (cause_of_roomFor hroom)

theorem cause_of_decChecks {s : State} {e : Cause} (h : decChecks s = .error e) :
    e = .divisionByZero ∨ e = .counterOverflow := by
  unfold decChecks at h
  rcases (checks_eq_error _ _ e).1 h with hgen | ⟨_, -, h⟩
  · exact .inl ((divisor_eq_error _ _ e).1 hgen).2
  rcases (checks_eq_error _ _ e).1 h with hroom | ⟨_, -, hdone⟩
  · exact .inr (cause_of_roomFor hroom)
  · cases hdone

theorem cause_of_trialChecks {s : State} {n : Nat} {e : Cause} (h : trialChecks s n = .error e) :
    e = .configurationError ∨ e = .operandRange ∨ e = .counterOverflow := by
  unfold trialChecks at h
  rcases (checks_eq_error _ _ e).1 h with hgen | ⟨_, -, h⟩
  · exact .inl ((divisor_eq_error _ _ e).1 hgen).2
  rcases (checks_eq_error _ _ e).1 h with hcount | ⟨_, -, h⟩
  · exact .inr (.inl ((check_eq_error _ _ e).1 hcount).2)
  rcases (checks_eq_error _ _ e).1 h with hwidth | ⟨_, -, h⟩
  · exact .inr (.inl ((check_eq_error _ _ e).1 hwidth).2)
  rcases (checks_eq_error _ _ e).1 h with hsent | ⟨_, -, h⟩
  · exact .inr (.inr (cause_of_roomFor hsent))
  rcases (checks_eq_error _ _ e).1 h with hdet | ⟨_, -, hdone⟩
  · exact .inr (.inr (cause_of_roomFor hdet))
  · cases hdone

/-! ### Only a failed check records a fault (R209) -/

theorem Cause.code_injective : Function.Injective Cause.code := by
  intro f g h
  cases f <;> cases g <;> simp [Cause.code] at h ⊢

theorem State.drawing_sameFault {s : State} {n : Nat} {use : List Draw → State → State}
    (huse : ∀ us d, SameFault s (use us (s.setSource d))) : SameFault s (s.drawing n use) := by
  rcases s.drawing_cases n use with ⟨us, d, -, hdrawn⟩ | ⟨-, hwaits⟩
  · rw [hdrawn]; exact huse us d
  · rw [hwaits]; exact ⟨rfl, rfl, rfl⟩

theorem State.afterTrials_sameFault (s : State) (n : Nat) (g : Divisor) : SameFault s (s.afterTrials n g) := by
  unfold State.afterTrials
  cases htrials : trials g n s with
  | none => exact ⟨rfl, rfl, rfl⟩
  | some t =>
    obtain ⟨⟨-, -, -, -, herr, hecmd, hhalt, -, -⟩, -⟩ := trials_frame n htrials
    exact ⟨herr, hecmd, hhalt⟩

/-- A fault a ready engine records is one that the command's checks gave, when its effect keeps the fault record. -/
theorem checks_error_of_faultsWith {α : Type} {i : Instr} {s : State} {checks : Except Cause α} {effect : α → State}
    {f : Cause} (hexec : exec i s = s.runCommand i checks effect) (hkeep : ∀ a, SameFault s (effect a))
    (hr : s.ready = true) (hf : FaultsWith i s f) : checks = .error f := by
  obtain ⟨t, ht, herr, -⟩ := hf
  rcases State.runCommand_cases s i checks effect (hexec.symm.trans ht) with
    ⟨hnot, -⟩ | ⟨-, e, he, rfl⟩ | ⟨-, a, -, rfl⟩
  · exact absurd hr (by simp [hnot])
  · rw [he, Cause.code_injective herr]
  · have hzero : f.code = 0#4 := herr.symm.trans ((hkeep a).1.trans ((State.ready_iff s).1 hr).2)
    exact absurd hzero f.code_ne_zero

end Sys2Proof.Machine
end

section
/-! The commands SETG, SETP and SETK (`41_configuration.md` R141 to R143): the statements O33, O34 and O35. -/

namespace Sys2Proof.Machine

/-! ### SETG -/

/-- Settles O33: SETG makes no check, so its effect is `State.setGen` for every value of `x[rs1]`. -/
theorem setgSetsGenerator : Obligations.SetgSetsGenerator := by
  intro rs1
  refine ⟨?_, fun s hr => ?_⟩
  · rw [← Laws.formatR_rs1_last]
    exact Laws.decode_encode_setg rs1
  · exact ⟨s.setGen (s.readX rs1), (exec_setg s rs1).trans (State.runCommand_ok _ _ _ _ hr rfl), rfl, rfl, rfl,
      fun _ => rfl, ⟨rfl, rfl⟩, ⟨rfl, rfl, rfl⟩, ⟨rfl, rfl, rfl⟩, ⟨rfl, rfl, rfl⟩⟩

/-! ### SETP -/

/-- The low bits of an immediate hold all of it when it is below their range. -/
theorem toNat_low_bits_of_lt {v : BitVec 24} {w : Nat} (h : v.toNat < 2 ^ w) : (v.extractLsb' 0 w).toNat = v.toNat := by
  simp [Nat.mod_eq_of_lt h]

/-- R142: InvalidProbability is in no other command's checks, and no command's effect records a fault. -/
theorem setp_of_faultsWith_invalidProbability {i : Instr} {s : State} (hr : s.ready = true)
    (hf : FaultsWith i s .invalidProbability) : ∃ v, i = .setp v := by
  cases i with
  | setp v => exact ⟨v, rfl⟩
  | ldi rd imm16 => cases checks_error_of_faultsWith (exec_ldi s rd imm16) (fun _ => ⟨rfl, rfl, rfl⟩) hr hf
  | deg rd rs1 => cases checks_error_of_faultsWith (exec_deg s rd rs1) (fun _ => ⟨rfl, rfl, rfl⟩) hr hf
  | setg rs1 => cases checks_error_of_faultsWith (exec_setg s rs1) (fun _ => ⟨rfl, rfl, rfl⟩) hr hf
  | mod rd rs1 rs2 =>
    have hc := checks_error_of_faultsWith (exec_mod s rd rs1 rs2) (fun _ => ⟨rfl, rfl, rfl⟩) hr hf
    simp [divisor_eq_error] at hc
  | setk imm24 =>
    have hc := checks_error_of_faultsWith (exec_setk s imm24) (fun _ => ⟨rfl, rfl, rfl⟩) hr hf
    simp [widthOperand_eq_error] at hc
  | enc rd rs1 =>
    have hc := checks_error_of_faultsWith (exec_enc s rd rs1) (fun _ => ⟨rfl, rfl, rfl⟩) hr hf
    simpa using cause_of_encChecks hc
  | tx rd rs1 w =>
    have hc := checks_error_of_faultsWith (exec_tx s rd rs1 w)
      (fun _ => State.drawing_sameFault fun us d => by simp [SameFault]) hr hf
    simpa using cause_of_txChecks hc
  | dec rd rs1 =>
    have hc := checks_error_of_faultsWith (exec_dec s rd rs1) (fun _ => by simp [SameFault]) hr hf
    simpa using cause_of_decChecks hc
  | trial =>
    have hc := checks_error_of_faultsWith (exec_trial s) (s.afterTrials_sameFault 1) hr hf
    simpa using cause_of_trialChecks hc
  | run imm24 =>
    have hc := checks_error_of_faultsWith (exec_run s imm24) (s.afterTrials_sameFault imm24.toNat) hr hf
    simpa using cause_of_trialChecks hc
  | rate =>
    have hc := checks_error_of_faultsWith (exec_rate s) (fun _ => ⟨rfl, rfl, rfl⟩) hr hf
    simp [check_eq_error] at hc

/-- Settles O34: the check is that of `thresholdOperand`, and no other command's checks raise InvalidProbability. -/
theorem setpSetsThreshold : Obligations.SetpSetsThreshold := by
  intro imm24
  refine ⟨Laws.decode_encode_setp imm24, fun s hr hle => ?_, fun s hr hlt => ?_,
    fun i s => setp_of_faultsWith_invalidProbability⟩
  · have hchecks := (thresholdOperand_eq_ok imm24 _).2 ⟨hle, rfl⟩
    exact ⟨s.setProb (imm24.extractLsb' 0 17), (exec_setp s imm24).trans (State.runCommand_ok _ _ _ _ hr hchecks),
      toNat_low_bits_of_lt (by omega), rfl, rfl, fun _ => rfl, ⟨rfl, rfl⟩, ⟨rfl, rfl, rfl⟩, ⟨rfl, rfl, rfl⟩,
      ⟨rfl, rfl, rfl⟩⟩
  · exact faultsWith_of_checks_error (exec_setp s imm24) hr ((thresholdOperand_eq_error imm24 _).2 ⟨hlt, rfl⟩)

/-! ### SETK -/

/-- Settles O35: the check is that of `widthOperand`, and a width up to 16 fits the five bits kept of the immediate. -/
theorem setkSetsWidth : Obligations.SetkSetsWidth := by
  intro imm24
  refine ⟨Laws.decode_encode_setk imm24, fun s hr hle => ?_, fun s hr hlt => ?_⟩
  · have hchecks := (widthOperand_eq_ok imm24 _).2 ⟨hle, rfl⟩
    exact ⟨s.setKw (imm24.extractLsb' 0 5), (exec_setk s imm24).trans (State.runCommand_ok _ _ _ _ hr hchecks),
      toNat_low_bits_of_lt (by omega), rfl, rfl, fun _ => rfl, ⟨rfl, rfl⟩, ⟨rfl, rfl, rfl⟩, ⟨rfl, rfl, rfl⟩,
      ⟨rfl, rfl, rfl⟩⟩
  · exact faultsWith_of_checks_error (exec_setk s imm24) hr ((widthOperand_eq_error imm24 _).2 ⟨hlt, rfl⟩)

end Sys2Proof.Machine
end

section
/-! The command ENC (`42_encoder.md` R152): its word, when each of its checks fails, and the statement O36. -/

namespace Sys2Proof.Laws

theorem decode_encode_enc (rd rs1 : RegNum) : decode (encode (.enc rd rs1)) = .ok (.enc rd rs1) :=
  decode_encode_of_row (TableRow.enc rd rs1) (r := rows[6]) (List.getElem_mem _) rfl (by simp [rows, encode])

end Sys2Proof.Laws

namespace Sys2Proof.Machine

theorem encChecks_zero (m : Poly) : encChecks 0 m = .error .configurationError :=
  (checks_eq_error _ _ _).2 (.inl (divisor_zero .configurationError))

theorem encChecks_of_not_encodable {g : Divisor} {m : Poly} (h : ¬ encodable g m) :
    encChecks g.val m = .error .operandRange := by
  have hgen : divisor g.val .configurationError = .ok g := divisor_ne_zero g.val .configurationError g.property
  have hfit : check (¬ encodable g m) .operandRange = .error .operandRange := check_pos .operandRange h
  exact (checks_eq_error _ _ _).2 (.inr ⟨g, hgen, (checks_eq_error _ _ _).2 (.inl hfit)⟩)

/-- Settles O36: a nonzero generator and a word that fits pass the checks, and what is then written is the codeword, by
its definition; the two faults are the lemmas above. -/
theorem encWritesCodeword : Obligations.EncWritesCodeword := by
  intro rd rs1
  refine ⟨?_, fun s hg hr hfits => ?_, fun s hr hzero => ?_, fun s hr hg hm hlong => ?_⟩
  · rw [← Laws.formatR_rs1_last]
    exact Laws.decode_encode_enc rd rs1
  · have hchecks := (encChecks_eq_ok s.gen (s.readX rs1) ⟨s.gen, hg⟩).2 ⟨rfl, hfits⟩
    exact ⟨_, (exec_enc s rd rs1).trans (State.runCommand_ok _ _ _ _ hr hchecks), s.readX_writeX_self rd _,
      s.writeX_frame rd _⟩
  · have hchecks : encChecks s.gen (s.readX rs1) = .error .configurationError := by
      rw [hzero]
      exact encChecks_zero _
    exact faultsWith_of_checks_error (exec_enc s rd rs1) hr hchecks
  · have hlost : ¬ encodable ⟨s.gen, hg⟩ (s.readX rs1) := not_or.2 ⟨hm, not_le.2 hlong⟩
    exact faultsWith_of_checks_error (exec_enc s rd rs1) hr (encChecks_of_not_encodable hlost)

end Sys2Proof.Machine
end

section
/-! The command TX (`43_channel.md` R163): its word, when each of its checks fails, what it does with its draws, and the
statement O41. -/

namespace Sys2Proof.Laws

theorem decode_encode_tx (rd rs1 : RegNum) (w : BitVec 5) : decode (encode (.tx rd rs1 w)) = .ok (.tx rd rs1 w) :=
  decode_encode_of_row (TableRow.tx rd rs1 w) (r := rows[7]) (List.getElem_mem _) rfl (by simp [rows, encode])

end Sys2Proof.Laws

namespace Sys2Proof.Machine

/-! ### The checks of TX, in their order -/

theorem toNat_lt_counterMax_of_ne {c : Counter} (h : c ≠ 0xFFFFFFFF) : c.toNat < 4294967295 := by
  bv_omega

theorem roomFor_max_one : roomFor 0xFFFFFFFF 1 = .error .counterOverflow := by decide

theorem transmissionOperands_of_wide {w : BitVec 5} (c : Poly) (h : 16 < w.toNat) :
    transmissionOperands c w = .error .operandRange :=
  (checks_eq_error _ _ _).2 (.inl (check_pos .operandRange h))

theorem transmissionOperands_of_high_bit {c : Poly} {w : BitVec 5} (hw : w.toNat ≤ 16) (hc : c >>> w.toNat ≠ 0) :
    transmissionOperands c w = .error .operandRange :=
  (checks_eq_error _ _ _).2 (.inr ⟨(), check_neg .operandRange (not_lt.2 hw), check_pos .operandRange hc⟩)

theorem txChecks_of_operands_error {s : State} {rs1 : RegNum} {w : BitVec 5} {f : Cause}
    (h : transmissionOperands (s.readX rs1) w = .error f) : txChecks s rs1 w = .error f :=
  (checks_eq_error _ _ f).2 (.inl h)

theorem txChecks_of_sent_max {s : State} {rs1 : RegNum} {w : BitVec 5} (hw : w.toNat ≤ 16)
    (hc : s.readX rs1 >>> w.toNat = 0) (hsent : s.sent = 0xFFFFFFFF) : txChecks s rs1 w = .error .counterOverflow := by
  have hroom : roomFor s.sent 1 = .error .counterOverflow := by rw [hsent, roomFor_max_one]
  exact (checks_eq_error _ _ _).2 (.inr ⟨(), (transmissionOperands_eq_ok _ w ()).2 ⟨hw, hc⟩, hroom⟩)

/-! ### The effect of TX -/

theorem State.drawing_of_take {s : State} {n : Nat} {us : List Draw} {d : RandomSource}
    (h : s.source.take n = some (us, d)) (use : List Draw → State → State) :
    s.drawing n use = use us (s.setSource d) := by
  simp [State.drawing, h]

theorem exec_tx_of_take {rd rs1 : RegNum} {w : BitVec 5} {s : State} {us : List Draw} {d : RandomSource}
    (hr : s.ready = true) (hchecks : txChecks s rs1 w = .ok ()) (htake : s.source.take w.toNat = some (us, d)) :
    exec (.tx rd rs1 w) s =
      .next (((s.setSource d).writeX rd (transmit s.prob us (s.readX rs1)).1).recordTransmission
        (transmit s.prob us (s.readX rs1)).2) := by
  rw [exec_tx, State.runCommand_ok _ _ _ _ hr hchecks, State.drawing_of_take htake]

/-- Settles O41: a word that passes the checks is sent with the draws the source answers, and the lemmas about
`State.writeX` and `State.recordTransmission` say what is written; the faults are the failed checks above. -/
theorem txSendsWord : Obligations.TxSendsWord := by
  intro rd rs1 w
  refine ⟨Laws.decode_encode_tx rd rs1 w, fun s us d hr hw hc hsent htake => ?_, fun s hr hw => ?_,
    fun s hr hw hc => ?_, fun s hr hw hc hsent => ?_⟩
  · have hchecks := (txChecks_eq_ok s rs1 w ()).2 ⟨hw, hc, toNat_lt_counterMax_of_ne hsent⟩
    have hidle : s.activity = .idle := ((State.ready_iff s).1 hr).1
    have hregs : SameRegsBut rd s ((s.setSource d).writeX rd (transmit s.prob us (s.readX rs1)).1) :=
      fun q hq => State.readX_writeX_other _ rd q _ hq
    refine ⟨_, exec_tx_of_take hr hchecks htake, ?_⟩
    simpa [SameRegsBut, SameConfig, SameFault, hidle] using hregs
  · exact faultsWith_of_checks_error (exec_tx s rd rs1 w) hr
      (txChecks_of_operands_error (transmissionOperands_of_wide _ hw))
  · exact faultsWith_of_checks_error (exec_tx s rd rs1 w) hr
      (txChecks_of_operands_error (transmissionOperands_of_high_bit hw hc))
  · exact faultsWith_of_checks_error (exec_tx s rd rs1 w) hr (txChecks_of_sent_max hw hc hsent)

end Sys2Proof.Machine
end

section
/-! The command DEC (`44_decoder.md` R173): its word, when each of its checks fails, and the statement O45. -/

namespace Sys2Proof.Laws

theorem decode_encode_dec (rd rs1 : RegNum) : decode (encode (.dec rd rs1)) = .ok (.dec rd rs1) :=
  decode_encode_of_row (TableRow.dec rd rs1) (r := rows[8]) (List.getElem_mem _) rfl (by simp [rows, encode])

end Sys2Proof.Laws

namespace Sys2Proof.Machine

/-! ### The checks of DEC, in their order -/

theorem decChecks_of_gen_zero {s : State} (h : s.gen = 0) : decChecks s = .error .divisionByZero :=
  (checks_eq_error _ _ _).2 (.inl ((divisor_eq_error _ _ _).2 ⟨h, rfl⟩))

theorem decChecks_of_det_max {s : State} (hg : s.gen ≠ 0) (hdet : s.det = 0xFFFFFFFF) :
    decChecks s = .error .counterOverflow := by
  have hgen : divisor s.gen .divisionByZero = .ok ⟨s.gen, hg⟩ := divisor_ne_zero s.gen .divisionByZero hg
  have hroom : roomFor s.det 1 = .error .counterOverflow := by rw [hdet, roomFor_max_one]
  exact (checks_eq_error _ _ _).2 (.inr ⟨_, hgen, (checks_eq_error _ _ _).2 (.inl hroom)⟩)

/-! ### The effect of DEC -/

theorem errorDetected_iff (g : Divisor) (v : Poly) : errorDetected g v = true ↔ gf2mod v g ≠ 0 :=
  bne_iff_ne

/-- Settles O45: a nonzero generator and room in `DET` pass the checks, and the lemmas about `State.writeX` and
`State.recordDecode` say what is then written; the two faults are the failed checks above. -/
theorem decChecksAndStrips : Obligations.DecChecksAndStrips := by
  intro rd rs1
  refine ⟨?_, fun s hg hr hdet => ?_, fun s hr hzero => ?_, fun s hr hg hdet => ?_⟩
  · rw [← Laws.formatR_rs1_last]
    exact Laws.decode_encode_dec rd rs1
  · have hchecks := (decChecks_eq_ok s ⟨s.gen, hg⟩).2 ⟨rfl, toNat_lt_counterMax_of_ne hdet⟩
    refine ⟨_, (exec_dec s rd rs1).trans (State.runCommand_ok _ _ _ _ hr hchecks), ?_, State.recordDecode_syn .., ?_,
      ?_, ?_, ?_⟩
    · rw [State.recordDecode_readX, State.readX_writeX_self, informationWord, Divisor.deg]
    · rw [State.recordDecode_status, errorDetected_iff]
    · simp only [State.recordDecode_det, errorDetected_iff, State.writeX_det]
    · intro q hq
      rw [State.recordDecode_readX, State.readX_writeX_other _ _ _ _ hq]
    · simp [SameConfig, SameFault, SameInputs]
  · exact faultsWith_of_checks_error (exec_dec s rd rs1) hr (decChecks_of_gen_zero hzero)
  · exact faultsWith_of_checks_error (exec_dec s rd rs1) hr (decChecks_of_det_max hg hdet)

end Sys2Proof.Machine
end

section
/-! The commands TRIAL and RATE (`45_statistics.md` R181 to R184, R189): their words, when each check of a trial fails,
what a trial records, and the statements O49 and O55. -/

namespace Sys2Proof.Laws

theorem decode_encode_trial : decode (encode .trial) = .ok .trial :=
  decode_encode_of_row TableRow.trial (r := rows[9]) (List.getElem_mem _) rfl rfl

theorem decode_encode_rate : decode (encode .rate) = .ok .rate :=
  decode_encode_of_row TableRow.rate (r := rows[11]) (List.getElem_mem _) rfl rfl

end Sys2Proof.Laws

namespace Sys2Proof.Machine

/-! ### The checks of `n` trials, in their order (R183) -/

theorem roomFor_eq_error {n : Nat} (hn : n ≤ 4294967295) (c : Counter) (e : Cause) :
    roomFor c n = .error e ↔ 4294967295 < c.toNat + n ∧ e = .counterOverflow := by
  have hfull : c.toNat > Config.counterMax - n ↔ 4294967295 < c.toNat + n := by
    simp only [Config.counterMax]
    omega
  rw [roomFor, check_eq_error, hfull]

theorem trialChecks_of_gen_zero {s : State} (h : s.gen = 0) (n : Nat) :
    trialChecks s n = .error .configurationError :=
  (checks_eq_error _ _ _).2 (.inl ((divisor_eq_error _ _ _).2 ⟨h, rfl⟩))

theorem trialChecks_of_out_of_range {g : Divisor} {s : State} {n : Nat} (hgen : g.val = s.gen)
    (h : n = 0 ∨ 16 < trialWidth g s) : trialChecks s n = .error .operandRange := by
  refine (checks_eq_error _ _ _).2 (.inr ⟨g, (divisor_eq_ok _ _ g).2 hgen, ?_⟩)
  by_cases hn : n = 0
  · exact (checks_eq_error _ _ _).2 (.inl (check_pos .operandRange hn))
  · have hwide := check_pos .operandRange (h.resolve_left hn)
    exact (checks_eq_error _ _ _).2 (.inr ⟨(), check_neg .operandRange hn, (checks_eq_error _ _ _).2 (.inl hwide)⟩)

theorem trialChecks_of_counter_full {g : Divisor} {s : State} {n : Nat} (hgen : g.val = s.gen) (hn : n ≠ 0)
    (hmax : n ≤ 4294967295) (hw : trialWidth g s ≤ 16)
    (h : 4294967295 < s.sent.toNat + n ∨ 4294967295 < s.det.toNat + n) :
    trialChecks s n = .error .counterOverflow := by
  have hrooms : (roomFor s.sent n >>= fun _ => roomFor s.det n >>= fun _ => .ok g) = .error .counterOverflow := by
    by_cases hsent : 4294967295 < s.sent.toNat + n
    · exact (checks_eq_error _ _ _).2 (.inl ((roomFor_eq_error hmax _ _).2 ⟨hsent, rfl⟩))
    · have hroom : roomFor s.sent n = .ok () := (roomFor_eq_ok _ _ _).2 (by omega)
      have hdet := (roomFor_eq_error hmax s.det _).2 ⟨h.resolve_left hsent, rfl⟩
      exact (checks_eq_error _ _ _).2 (.inr ⟨(), hroom, (checks_eq_error _ _ _).2 (.inl hdet)⟩)
  rw [trialChecks, (divisor_eq_ok _ _ g).2 hgen, checks_ok, check_neg _ hn, checks_ok, check_neg _ (not_lt.2 hw),
    checks_ok]
  exact hrooms

/-! ### The effect of TRIAL -/

theorem trial_of_take {g : Divisor} {s : State} {u : Draw} {us : List Draw} {d : RandomSource}
    (h : s.source.take (1 + trialWidth g s) = some (u :: us, d)) :
    trial g s = some ((s.setSource d).recordTrial g u us) := by
  have hanswers : (trial g s).isSome = true := by rw [trial_isSome, ← RandomSource.take_isSome, h]; rfl
  obtain ⟨t, ht⟩ := Option.isSome_iff_exists.1 hanswers
  obtain ⟨v, vs, e, htake, rfl⟩ := trial_spec ht
  cases h.symm.trans htake
  exact ht

theorem State.afterTrials_one_of_take {g : Divisor} {s : State} {u : Draw} {us : List Draw} {d : RandomSource}
    (h : s.source.take (1 + trialWidth g s) = some (u :: us, d)) :
    s.afterTrials 1 g = (s.setSource d).recordTrial g u us := by
  simp [State.afterTrials, trials, trial_of_take h]

theorem exec_trial_of_take {g : Divisor} {s : State} {u : Draw} {us : List Draw} {d : RandomSource}
    (hr : s.ready = true) (hchecks : trialChecks s 1 = .ok g)
    (htake : s.source.take (1 + trialWidth g s) = some (u :: us, d)) :
    exec .trial s = .next ((s.setSource d).recordTrial g u us) := by
  rw [exec_trial, State.runCommand_ok _ _ _ _ hr hchecks, State.afterTrials_one_of_take htake]

/-- Settles O49: what passes the checks runs one trial with the draws the source answers; `State.recordTrial_frame` says
what it keeps, the lemmas about recording a transmission and a decode what it writes, and the faults are the failed
checks above. -/
theorem trialRunsOneTrial : Obligations.TrialRunsOneTrial := by
  have hwidth : ∀ (s : State) (hg : s.gen ≠ 0), (trialWidth ⟨s.gen, hg⟩ s : Int) = s.kw.toNat + deg s.gen :=
    fun s hg => trialWidth_coe ⟨s.gen, hg⟩ s
  refine ⟨Laws.decode_encode_trial, fun s hg u us d hr hw hsent hdet htake => ?_, fun s hr hzero => ?_,
    fun s hr hg hwide => ?_, fun s hr hg hw hfull => ?_⟩
  · have hfits := hwidth s hg
    have hsent := toNat_lt_counterMax_of_ne hsent
    have hdet := toNat_lt_counterMax_of_ne hdet
    have hchecks : trialChecks s 1 = .ok ⟨s.gen, hg⟩ :=
      (trialChecks_eq_ok s 1 ⟨s.gen, hg⟩ (by omega)).2 ⟨rfl, one_ne_zero, by omega, by omega, by omega⟩
    have hidle : s.activity = .idle := ((State.ready_iff s).1 hr).1
    obtain ⟨⟨hx, hgen, hprob, hkw, herr, hecmd, hhalt, hhost, hact⟩, hsource⟩ :=
      State.recordTrial_frame (s.setSource d) ⟨s.gen, hg⟩ u us
    have hregs : SameRegs s ((s.setSource d).recordTrial ⟨s.gen, hg⟩ u us) := fun r => by simp [State.readX, hx]
    refine ⟨_, _, _, rfl, exec_trial_of_take hr hchecks htake, ?_, ?_, ?_, ?_, ?_, hsource, hregs, ⟨hgen, hprob, hkw⟩,
      ⟨herr, hecmd, hhalt⟩, hhost, hact.trans hidle⟩ <;>
      simp [State.recordTrial, syndrome, errorDetected_iff]
  · exact faultsWith_of_checks_error (exec_trial s) hr (trialChecks_of_gen_zero hzero 1)
  · have hlong := hwidth s hg
    exact faultsWith_of_checks_error (exec_trial s) hr
      (trialChecks_of_out_of_range (g := ⟨s.gen, hg⟩) rfl (.inr (by omega)))
  · have hfits := hwidth s hg
    have hcount : 4294967295 < s.sent.toNat + 1 ∨ 4294967295 < s.det.toNat + 1 :=
      hfull.imp (fun h => by simp [h]) (fun h => by simp [h])
    exact faultsWith_of_checks_error (exec_trial s) hr
      (trialChecks_of_counter_full (g := ⟨s.gen, hg⟩) rfl one_ne_zero (by omega) (by omega) hcount)

/-! ### RATE -/

/-- Settles O55: the one check is that `SENT` is not zero, and the effect is the state itself. -/
theorem rateAsksForErrorsSent : Obligations.RateAsksForErrorsSent := by
  refine ⟨Laws.decode_encode_rate, fun s hr hsent => ?_, fun s hr hzero => ?_⟩
  · exact (exec_rate s).trans (State.runCommand_ok _ _ _ _ hr (check_neg .divisionByZero hsent))
  · exact faultsWith_of_checks_error (exec_rate s) hr (check_pos .divisionByZero hzero)

end Sys2Proof.Machine
end

section
/-! Fault entry and the fault of a word that is no command (`60_exceptions.md` R207, R208), and the statements O10 and
O13. -/

namespace Sys2Proof.Machine

@[simp] theorem State.halted_raise (s : State) (f : Cause) (c : CmdWord) : (s.raise f c).halted = true := rfl

theorem State.raise_frame (s : State) (f : Cause) (c : CmdWord) :
    SameRegs s (s.raise f c) ∧ SameConfig s (s.raise f c) ∧ SameCounters s (s.raise f c) ∧
      SameFlags s (s.raise f c) ∧ SameInputs s (s.raise f c) :=
  ⟨s.raise_readX f c, ⟨rfl, rfl, rfl⟩, ⟨rfl, rfl⟩, ⟨rfl, rfl, rfl⟩, ⟨rfl, rfl, rfl⟩⟩

/-- Settles O10: the record by the field lemmas of `State.raise`, `cmd_ready` because no cause has code 0
(`State.ready_raise`), the rest by `State.raise_frame`. -/
theorem faultEntryWritesItsRecordOnly : Obligations.FaultEntryWritesItsRecordOnly := fun s f c =>
  ⟨s.raise_err f c, s.raise_ecmd f c, rfl, s.halted_raise f c, s.ready_raise f c, s.raise_frame f c⟩

theorem State.takeIllegal_of_ready {s : State} (hr : s.ready = true) (c : CmdWord) :
    s.takeIllegal c = s.raise .illegalCommand c := if_pos hr

/-- An idle engine, halted or not, takes a word that is no command off the host's list. -/
theorem step_of_decode_error {s : State} {c : CmdWord} {rest : List HostAction} {e : IllegalWord}
    (hidle : s.activity = .idle) (hhost : s.host = .command c :: rest) (hdecode : decode c = .error e) :
    step s = .next ((s.setHost rest).takeIllegal c) := by
  have hfetch : fetch s = .settled ((s.setHost rest).takeIllegal c) := by
    simp [fetch, hhost, takeWord, hidle, hdecode]
  simp [step, hfetch]

/-- Settles O13: the step is a fault entry with code 6 after the word is taken, and `State.raise_frame` says what that
keeps. -/
theorem illegalWordFaults : Obligations.IllegalWordFaults := by
  intro s c rest e hr hhost hdecode
  have hidle : s.activity = .idle := ((State.ready_iff s).1 hr).1
  have hstep : step s = .next ((s.setHost rest).raise .illegalCommand c) := by
    rw [step_of_decode_error hidle hhost hdecode, State.takeIllegal_of_ready (s := s.setHost rest) hr]
  obtain ⟨hregs, hconfig, hcounters, hflags, hinputs⟩ := (s.setHost rest).raise_frame .illegalCommand c
  exact ⟨_, hstep, rfl, rfl, rfl, hregs, hconfig, hcounters, hflags, hinputs⟩

end Sys2Proof.Machine
end

section
/-! The decoder and the encoder undo each other (`30_encoding.md` R91, R95 to R97, R101): the statements O1 to O5. -/

namespace Sys2Proof.Laws

/-! ### Every command's own word -/

theorem decode_encode_run (imm24 : BitVec 24) : decode (encode (.run imm24)) = .ok (.run imm24) :=
  decode_encode_of_row (TableRow.run imm24) (r := rows[10]) (List.getElem_mem _) rfl (by simp [rows, encode])

/-- Settles O1: each command's word lies under the row of its mnemonic, and that row reads back the operands. -/
theorem decodeReadsBackEncoding : Obligations.DecodeReadsBackEncoding := by
  intro i
  cases i with
  | ldi rd imm16 => exact decode_encode_ldi rd imm16
  | deg rd rs1 => exact decode_encode_deg rd rs1
  | mod rd rs1 rs2 => exact decode_encode_mod rd rs1 rs2
  | setg rs1 => exact decode_encode_setg rs1
  | setp imm24 => exact decode_encode_setp imm24
  | setk imm24 => exact decode_encode_setk imm24
  | enc rd rs1 => exact decode_encode_enc rd rs1
  | tx rd rs1 w => exact decode_encode_tx rd rs1 w
  | dec rd rs1 => exact decode_encode_dec rd rs1
  | trial => exact decode_encode_trial
  | run imm24 => exact decode_encode_run imm24
  | rate => exact decode_encode_rate

/-! ### A word is put together from its fields (R91) -/

theorem formatI_of_fields {c : CmdWord} {op : BitVec 8} (hop : fieldOp c = op) : formatI op (fieldImm24 c) = c := by
  subst hop
  apply BitVec.eq_of_getLsbD_eq
  intro j hj
  simp only [formatI, fieldOp, fieldImm24, BitVec.getLsbD_append, BitVec.getLsbD_extractLsb']
  interval_cases j <;> simp

theorem formatN_of_fields {c : CmdWord} {op : BitVec 8} (hop : fieldOp c = op) (hunused : fieldImm24 c = 0) :
    formatN op = c :=
  (congrArg (formatI op) hunused.symm).trans (formatI_of_fields hop)

theorem formatL_of_fields {c : CmdWord} {op : BitVec 8} (hop : fieldOp c = op) (hunused : c.extractLsb' 16 5 = 0) :
    formatL op (fieldRd c) (fieldImm16 c) = c := by
  rw [formatL, ← hunused, ← hop]
  apply BitVec.eq_of_getLsbD_eq
  intro j hj
  simp only [fieldOp, fieldRd, fieldImm16, BitVec.getLsbD_append, BitVec.getLsbD_extractLsb']
  interval_cases j <;> simp

theorem formatR_of_fields {c : CmdWord} {op : BitVec 8} {rd rs1 rs2 : RegNum} {w : BitVec 5} (hop : fieldOp c = op)
    (hrd : fieldRd c = rd) (hrs1 : fieldRs1 c = rs1) (hrs2 : fieldRs2 c = rs2) (hw : fieldW c = w)
    (hunused : c.extractLsb' 0 10 = 0) : formatR op rd rs1 rs2 w = c := by
  rw [formatR, ← hunused, ← hop, ← hrd, ← hrs1, ← hrs2, ← hw]
  apply BitVec.eq_of_getLsbD_eq
  intro j hj
  simp only [fieldOp, fieldRd, fieldRs1, fieldRs2, fieldW, BitVec.getLsbD_append, BitVec.getLsbD_extractLsb']
  interval_cases j <;> simp

/-- Where a row's mask covers a field, a word under the row has the field of the row's pattern. -/
theorem extractLsb'_of_hits {r : Row} {c : CmdWord} (h : r.hits c = true) (start len : Nat)
    (hcovered : r.mask.extractLsb' start len = BitVec.allOnes len) :
    c.extractLsb' start len = r.pattern.extractLsb' start len := by
  have hmatch : c &&& r.mask = r.pattern := by simpa [Row.hits] using h
  calc c.extractLsb' start len = c.extractLsb' start len &&& r.mask.extractLsb' start len := by
        rw [hcovered, BitVec.and_allOnes]
    _ = (c &&& r.mask).extractLsb' start len := BitVec.extractLsb'_and.symm
    _ = r.pattern.extractLsb' start len := by rw [hmatch]

/-- A row's command has the word's own fields, and the row's mask covers every other field of its format (R95). -/
theorem encode_build_of_hits {r : Row} (hr : r ∈ rows) {c : CmdWord} (h : r.hits c = true) :
    encode (r.build c) = c := by
  have field := extractLsb'_of_hits h
  simp only [rows, List.mem_cons, List.not_mem_nil, or_false] at hr
  rcases hr with rfl | rfl | rfl | rfl | rfl | rfl | rfl | rfl | rfl | rfl | rfl | rfl
  · exact formatL_of_fields (field 24 8 rfl) (field 16 5 rfl)
  · exact formatR_of_fields (field 24 8 rfl) rfl rfl (field 15 3 rfl) (field 10 5 rfl) (field 0 10 rfl)
  · exact formatR_of_fields (field 24 8 rfl) rfl rfl rfl (field 10 5 rfl) (field 0 10 rfl)
  · exact formatR_of_fields (field 24 8 rfl) (field 21 3 rfl) rfl (field 15 3 rfl) (field 10 5 rfl) (field 0 10 rfl)
  · exact formatI_of_fields (field 24 8 rfl)
  · exact formatI_of_fields (field 24 8 rfl)
  · exact formatR_of_fields (field 24 8 rfl) rfl rfl (field 15 3 rfl) (field 10 5 rfl) (field 0 10 rfl)
  · exact formatR_of_fields (field 24 8 rfl) rfl rfl (field 15 3 rfl) rfl (field 0 10 rfl)
  · exact formatR_of_fields (field 24 8 rfl) rfl rfl (field 15 3 rfl) (field 10 5 rfl) (field 0 10 rfl)
  · exact formatN_of_fields (field 24 8 rfl) (field 0 24 rfl)
  · exact formatI_of_fields (field 24 8 rfl)
  · exact formatN_of_fields (field 24 8 rfl) (field 0 24 rfl)

theorem encode_of_decode {c : CmdWord} {i : Instr} (h : decode c = .ok i) : encode i = c := by
  obtain ⟨r, hr, hhits, rfl⟩ := hits_of_decode c i h
  exact encode_build_of_hits hr hhits

/-- Settles O2: a word that is a command lies under the row that builds the command. -/
theorem encodeReadsBackDecoding : Obligations.EncodeReadsBackDecoding := fun _ _ => encode_of_decode

/-! ### A word matches one row or none (R96) -/

/-- Two rows that match one word are the same row, since they have its opcode. -/
theorem row_eq_of_hits {q r : Row} {c : CmdWord} (hq : q ∈ rows) (hr : r ∈ rows) (hqc : q.hits c = true)
    (hrc : r.hits c = true) : q = r :=
  List.inj_on_of_nodup_map rows_opcodes_nodup hq hr
    ((fieldOp_of_hits q hq c hqc).symm.trans (fieldOp_of_hits r hr c hrc))

theorem length_filter_hits {r : Row} {c : CmdWord} (hr : r ∈ rows) (h : r.hits c = true) :
    (rows.filter fun r => r.hits c).length = 1 := by
  have hmem : r ∈ rows.filter fun r => r.hits c := List.mem_filter.2 ⟨hr, h⟩
  have honly : (rows.filter fun r => r.hits c) ⊆ [r] := fun q hq => by
    obtain ⟨hq, hqc⟩ := List.mem_filter.1 hq
    exact List.mem_singleton.2 (row_eq_of_hits hq hr hqc h)
  have hnodup := (List.Nodup.of_map _ rows_opcodes_nodup).filter fun r => r.hits c
  exact le_antisymm (List.subperm_of_subset hnodup honly).length_le (List.length_pos_of_mem hmem)

/-- Settles O3: the row of a command is its only row, and a word under any row is a command. -/
theorem wordMatchesOneRowOrNone : Obligations.WordMatchesOneRowOrNone := by
  intro c
  cases hdecode : decode c with
  | ok i =>
    obtain ⟨r, hr, hhits, -⟩ := hits_of_decode c i hdecode
    exact .inl ⟨length_filter_hits hr hhits, i, rfl⟩
  | error e =>
    have hnone : (rows.filter fun r => r.hits c) = [] := List.filter_eq_nil_iff.2 fun r hr hhits => by
      have hok := decode_of_hits r hr c hhits
      rw [hdecode] at hok
      cases hok
    exact .inr ⟨by rw [hnone]; rfl, e, rfl⟩

/-! ### The two reasons for a word that is none (R97) -/

theorem decode_undefinedOpcode {c : CmdWord} (h : ∀ r ∈ rows, fieldOp c ≠ fieldOp r.pattern) :
    decode c = .error .undefinedOpcode := by
  have hnone : rows.find? (·.hits c) = none := List.find?_eq_none.2 fun r hr hhits =>
    h r hr (fieldOp_of_hits r hr c hhits)
  have hany : ¬ rows.any (fun r => fieldOp r.pattern == fieldOp c) = true := fun hany => by
    obtain ⟨r, hr, hop⟩ := List.any_eq_true.1 hany
    exact h r hr (beq_iff_eq.1 hop).symm
  unfold decode
  rw [hnone]
  exact if_neg hany

theorem decode_eq_mbzNotZero_iff (c : CmdWord) :
    decode c = .error .mbzNotZero ↔ ∃ r ∈ rows, fieldOp c = fieldOp r.pattern ∧ r.hits c = false := by
  constructor
  · intro hdecode
    by_contra hno
    by_cases hdefined : ∃ r ∈ rows, fieldOp c = fieldOp r.pattern
    · obtain ⟨r, hr, hop⟩ := hdefined
      have hhits : r.hits c = true := by
        by_contra hmiss
        exact hno ⟨r, hr, hop, by simpa using hmiss⟩
      simp [decode_of_hits r hr c hhits] at hdecode
    · simp [decode_undefinedOpcode fun r hr hop => hdefined ⟨r, hr, hop⟩] at hdecode
  · rintro ⟨r, hr, hop, hmiss⟩
    exact decode_mbzNotZero hr hop hmiss

theorem decode_eq_undefinedOpcode_iff (c : CmdWord) :
    decode c = .error .undefinedOpcode ↔ ¬ ∃ r ∈ rows, fieldOp c = fieldOp r.pattern := by
  constructor
  · rintro hdecode ⟨r, hr, hop⟩
    cases hhits : r.hits c with
    | true => simp [decode_of_hits r hr c hhits] at hdecode
    | false => simp [decode_mbzNotZero hr hop hhits] at hdecode
  · intro h
    exact decode_undefinedOpcode fun r hr hop => h ⟨r, hr, hop⟩

/-- The opcodes of the table are 0x01 to 0x0C (R92). -/
theorem not_exists_row_opcode_iff (op : BitVec 8) :
    (¬ ∃ r ∈ rows, op = fieldOp r.pattern) ↔ op = 0 ∨ 0x0D ≤ op := by
  simp only [rows, fieldOp, List.mem_cons, List.not_mem_nil, or_false, exists_eq_or_imp, exists_eq_left,
    BitVec.reduceExtractLsb']
  bv_omega

/-- Settles O4: the opcodes that no row has, and the words that fail the row of their opcode. -/
theorem illegalWordsAreNamed : Obligations.IllegalWordsAreNamed := by
  refine fun c => ⟨?_, ?_⟩
  · rw [decode_eq_undefinedOpcode_iff, not_exists_row_opcode_iff]
  · simp [decode_eq_mbzNotZero_iff, Row.hits]

/-! ### The listed words (R101) -/

/-- Settles O5: the decoder computes on each listed word. -/
theorem listedWordsDecode : Obligations.ListedWordsDecode :=
  ⟨rfl, rfl, rfl, rfl, rfl, rfl, rfl, rfl, rfl, rfl, rfl, rfl, rfl, rfl, rfl, rfl, rfl,
    rfl, rfl, rfl, rfl, rfl, rfl, rfl, rfl⟩

end Sys2Proof.Laws
end

section
/-! The assembler answers exactly the commands whose written form it is given (`30_encoding.md` R99): the statements O6
and O7. -/

namespace Sys2Proof.Machine

/-! ### One operand -/

@[simp] theorem registerField_reg (r : RegNum) : registerField (.reg r.toNat) = some r := by
  simp [registerField, r.isLt]

@[simp] theorem immediateField_imm {bits : Nat} (v : BitVec bits) : immediateField bits (.imm v.toNat) = some v := by
  simp [immediateField, v.isLt]

theorem registerField_eq_some (o : Operand) (r : RegNum) : registerField o = some r ↔ o = .reg r.toNat := by
  refine ⟨fun h => ?_, fun h => by rw [h, registerField_reg]⟩
  cases o with
  | reg n =>
    obtain ⟨hn, rfl⟩ : n < 8 ∧ BitVec.ofNat 3 n = r := by simpa [registerField] using h
    simp [Nat.mod_eq_of_lt hn]
  | imm n => cases h

theorem immediateField_eq_some {bits : Nat} (o : Operand) (v : BitVec bits) :
    immediateField bits o = some v ↔ o = .imm v.toNat := by
  refine ⟨fun h => ?_, fun h => by rw [h, immediateField_imm]⟩
  cases o with
  | reg n => cases h
  | imm n =>
    obtain ⟨hn, rfl⟩ : n < 2 ^ bits ∧ BitVec.ofNat bits n = v := by simpa [immediateField] using h
    simp [Nat.mod_eq_of_lt hn]

theorem fits_reg_iff (o : Operand) : o.fits .reg = true ↔ ∃ r : RegNum, o = .reg r.toNat := by
  simp only [← registerField_eq_some, ← Option.isSome_iff_exists]
  cases o <;> simp [Operand.fits, registerField]

theorem fits_imm_iff (o : Operand) (bits : Nat) : o.fits (.imm bits) = true ↔ ∃ v : BitVec bits, o = .imm v.toNat := by
  simp only [← immediateField_eq_some, ← Option.isSome_iff_exists]
  cases o <;> simp [Operand.fits, immediateField]

/-! ### A written command -/

theorem operandsFit_nil_iff (os : List Operand) : operandsFit os [] = true ↔ os = [] := by
  cases os <;> simp [operandsFit]

theorem operandsFit_cons_iff (os : List Operand) (p : Slot) (ps : List Slot) :
    operandsFit os (p :: ps) = true ↔ ∃ o rest, os = o :: rest ∧ o.fits p = true ∧ operandsFit rest ps = true := by
  cases os <;> simp [operandsFit]

theorem assemble_written (i : Instr) : assemble i.written = some i := by
  cases i <;> simp [assemble, Instr.written]

/-- Settles O7: each operand of a written form reads back as its field. -/
theorem writtenFormAssemblesBack : Obligations.WrittenFormAssemblesBack := assemble_written

theorem written_of_assemble {t : Written} {i : Instr} (h : assemble t = some i) : i.written = t := by
  obtain ⟨m, os⟩ := t
  unfold assemble at h
  dsimp only at h
  split at h <;>
    simp only [Option.bind_eq_bind, Option.bind_eq_some_iff, Option.pure_def, Option.some.injEq,
      registerField_eq_some, immediateField_eq_some, reduceCtorEq] at h
  · obtain ⟨rd, rfl, imm16, rfl, rfl⟩ := h; rfl
  · obtain ⟨rd, rfl, rs1, rfl, rfl⟩ := h; rfl
  · obtain ⟨rd, rfl, rs1, rfl, rs2, rfl, rfl⟩ := h; rfl
  · obtain ⟨rs1, rfl, rfl⟩ := h; rfl
  · obtain ⟨imm24, rfl, rfl⟩ := h; rfl
  · obtain ⟨imm24, rfl, rfl⟩ := h; rfl
  · obtain ⟨rd, rfl, rs1, rfl, rfl⟩ := h; rfl
  · obtain ⟨rd, rfl, rs1, rfl, w, rfl, rfl⟩ := h; rfl
  · obtain ⟨rd, rfl, rs1, rfl, rfl⟩ := h; rfl
  · subst h; rfl
  · obtain ⟨imm24, rfl, rfl⟩ := h; rfl
  · subst h; rfl

theorem mem_slotsOf_of_lookup {m : String} {ps : List Slot} (h : slotsOf.lookup m = some ps) : (m, ps) ∈ slotsOf := by
  obtain ⟨l₁, l₂, hsplit, -⟩ := List.lookup_eq_some_iff.1 h
  simp [hsplit]

/-- What fits the operand positions of a mnemonic is a command's written form. -/
theorem exists_written_of_wellFormed {t : Written} (h : t.wellFormed = true) : ∃ i : Instr, i.written = t := by
  obtain ⟨m, os⟩ := t
  unfold Written.wellFormed at h
  split at h
  case h_2 => cases h
  case h_1 ps hps =>
    have hmem := mem_slotsOf_of_lookup hps
    simp only [slotsOf, List.mem_cons, List.not_mem_nil, or_false, Prod.mk.injEq] at hmem
    rcases hmem with ⟨rfl, rfl⟩ | ⟨rfl, rfl⟩ | ⟨rfl, rfl⟩ | ⟨rfl, rfl⟩ | ⟨rfl, rfl⟩ | ⟨rfl, rfl⟩ | ⟨rfl, rfl⟩ |
      ⟨rfl, rfl⟩ | ⟨rfl, rfl⟩ | ⟨rfl, rfl⟩ | ⟨rfl, rfl⟩ | ⟨rfl, rfl⟩ <;>
      simp only [operandsFit_cons_iff, operandsFit_nil_iff, fits_reg_iff, fits_imm_iff] at h
    · obtain ⟨_, _, rfl, ⟨rd, rfl⟩, _, _, rfl, ⟨imm16, rfl⟩, rfl⟩ := h
      exact ⟨.ldi rd imm16, rfl⟩
    · obtain ⟨_, _, rfl, ⟨rd, rfl⟩, _, _, rfl, ⟨rs1, rfl⟩, rfl⟩ := h
      exact ⟨.deg rd rs1, rfl⟩
    · obtain ⟨_, _, rfl, ⟨rd, rfl⟩, _, _, rfl, ⟨rs1, rfl⟩, _, _, rfl, ⟨rs2, rfl⟩, rfl⟩ := h
      exact ⟨.mod rd rs1 rs2, rfl⟩
    · obtain ⟨_, _, rfl, ⟨rs1, rfl⟩, rfl⟩ := h
      exact ⟨.setg rs1, rfl⟩
    · obtain ⟨_, _, rfl, ⟨imm24, rfl⟩, rfl⟩ := h
      exact ⟨.setp imm24, rfl⟩
    · obtain ⟨_, _, rfl, ⟨imm24, rfl⟩, rfl⟩ := h
      exact ⟨.setk imm24, rfl⟩
    · obtain ⟨_, _, rfl, ⟨rd, rfl⟩, _, _, rfl, ⟨rs1, rfl⟩, rfl⟩ := h
      exact ⟨.enc rd rs1, rfl⟩
    · obtain ⟨_, _, rfl, ⟨rd, rfl⟩, _, _, rfl, ⟨rs1, rfl⟩, _, _, rfl, ⟨w, rfl⟩, rfl⟩ := h
      exact ⟨.tx rd rs1 w, rfl⟩
    · obtain ⟨_, _, rfl, ⟨rd, rfl⟩, _, _, rfl, ⟨rs1, rfl⟩, rfl⟩ := h
      exact ⟨.dec rd rs1, rfl⟩
    · subst h
      exact ⟨.trial, rfl⟩
    · obtain ⟨_, _, rfl, ⟨imm24, rfl⟩, rfl⟩ := h
      exact ⟨.run imm24, rfl⟩
    · subst h
      exact ⟨.rate, rfl⟩

theorem wellFormed_written (i : Instr) : i.written.wellFormed = true := by
  cases i with
  | ldi rd imm16 => exact Laws.WrittenForm.ldi rd imm16
  | deg rd rs1 => exact Laws.WrittenForm.deg rd rs1
  | mod rd rs1 rs2 => exact Laws.WrittenForm.mod rd rs1 rs2
  | setg rs1 => exact Laws.WrittenForm.setg rs1
  | setp imm24 => exact Laws.WrittenForm.setp imm24
  | setk imm24 => exact Laws.WrittenForm.setk imm24
  | enc rd rs1 => exact Laws.WrittenForm.enc rd rs1
  | tx rd rs1 w => exact Laws.WrittenForm.tx rd rs1 w
  | dec rd rs1 => exact Laws.WrittenForm.dec rd rs1
  | trial => exact Laws.WrittenForm.trial
  | run imm24 => exact Laws.WrittenForm.run imm24
  | rate => exact Laws.WrittenForm.rate

/-- Settles O6: what the assembler accepts and what is well formed are both the commands' written forms. -/
theorem assemblerAcceptsExactlyWhatFits : Obligations.AssemblerAcceptsExactlyWhatFits := by
  intro t
  rw [Bool.eq_iff_iff, Option.isSome_iff_exists]
  constructor
  · rintro ⟨i, h⟩
    rw [← written_of_assemble h]
    exact wellFormed_written i
  · intro h
    obtain ⟨i, rfl⟩ := exists_written_of_wellFormed h
    exact ⟨i, assemble_written i⟩

end Sys2Proof.Machine
end

section
/-! The remainder as a linear map (`40_polynomial.md` R124 facts 4 to 8): the statements O27, O28 and O29. -/

namespace Sys2Proof.Machine

/-! ### Induction along the turns of the division loop -/

/-- What holds of every value of lower degree than the divisor, and of a value when it holds of what one turn of the
loop leaves of it, holds of every value. -/
theorem gf2mod_induction (b : Divisor) {P : Poly → Prop} (below : ∀ a, deg a < deg b.val → P a)
    (turn : ∀ a, deg b.val ≤ deg a → P (a ^^^ (b.val <<< (deg a - deg b.val).toNat)) → P a) (a : Poly) : P a := by
  have upTo : ∀ (n : Nat) (a : Poly), deg a < n → P a := by
    intro n
    induction n with
    | zero =>
      intro a ha
      have hb := deg_nonneg_of_ne_zero b.property
      exact below a (by omega)
    | succ n ih =>
      intro a ha
      rcases lt_or_ge (deg a) (deg b.val) with hlt | hle
      · exact below a hlt
      · have hdrop := deg_xor_aligned_lt b.property hle
        exact turn a hle (ih _ (by omega))
  have ha := deg_le_fifteen a
  exact upTo 16 a (by omega)

@[simp] theorem gf2mod_zero (b : Divisor) : gf2mod 0#16 b = 0#16 := by
  have hb := deg_nonneg_of_ne_zero b.property
  have hzero : deg 0#16 = -1 := deg_zero
  exact gf2mod_of_deg_lt (by omega)

/-- R124 fact 8. -/
theorem gf2mod_gf2mod (a : Poly) (b : Divisor) : gf2mod (gf2mod a b) b = gf2mod a b :=
  gf2mod_of_deg_lt (deg_gf2mod_lt a b)

/-- Settles O27: the loop makes no turn on a value of lower degree, and a remainder is such a value. -/
theorem remainderIsItsOwnRemainder : Obligations.RemainderIsItsOwnRemainder :=
  fun a b => ⟨gf2mod_of_deg_lt, gf2mod_gf2mod a b⟩

/-! ### Adding a shifted divisor changes no remainder -/

theorem deg_xor_of_lt {a c : Poly} (h : deg c < deg a) : deg (a ^^^ c) = deg a := by
  have hc := neg_one_le_deg c
  obtain ⟨i, hi⟩ := Int.eq_ofNat_of_zero_le (show 0 ≤ deg a by omega)
  obtain ⟨abit, aabove⟩ := (deg_eq_iff a i).1 hi
  have cabove := (deg_lt_iff c i).1 (by omega)
  have hsum : deg (a ^^^ c) = i :=
    (deg_eq_iff _ i).2 ⟨by simp [abit, cabove i le_rfl], fun j hj => by simp [aabove j hj, cabove j hj.le]⟩
  rw [hsum, hi]

theorem Divisor.deg_shiftLeft (b : Divisor) {k : Nat} (hk : b.deg + k ≤ 15) :
    Machine.deg (b.val <<< k) = (b.deg + k : Nat) :=
  Machine.deg_shiftLeft b.deg_coe.symm (by omega)

theorem gf2mod_xor_shiftLeft (b : Divisor) {k : Nat} (hk : b.deg + k ≤ 15) (a : Poly) :
    gf2mod (a ^^^ (b.val <<< k)) b = gf2mod a b := by
  have hb := b.deg_coe
  have hshift := b.deg_shiftLeft hk
  have undo : ∀ x : Poly, x ^^^ (b.val <<< k) ^^^ (b.val <<< k) = x := fun x => by
    rw [BitVec.xor_assoc, BitVec.xor_self, BitVec.xor_zero]
  have leads : ∀ a, deg a < (b.deg + k : Nat) → gf2mod (a ^^^ (b.val <<< k)) b = gf2mod a b := fun a ha => by
    have hsum : deg (a ^^^ (b.val <<< k)) = (b.deg + k : Nat) := by
      rw [BitVec.xor_comm, deg_xor_of_lt (by omega), hshift]
    rw [gf2mod_of_deg_le (by omega), show (deg (a ^^^ (b.val <<< k)) - deg b.val).toNat = k by omega, undo]
  induction a using gf2mod_induction b with
  | below a ha => exact leads a (by omega)
  | turn a hle ih =>
    rcases lt_trichotomy (deg a) ((b.deg + k : Nat) : Int) with hlt | heq | hgt
    · exact leads a hlt
    · rw [gf2mod_of_deg_le hle, show (deg a - deg b.val).toNat = k by omega]
    · have hsum : deg (a ^^^ (b.val <<< k)) = deg a := deg_xor_of_lt (by omega)
      rw [gf2mod_of_deg_le (by omega), hsum, gf2mod_of_deg_le hle, ← ih, BitVec.xor_assoc,
        BitVec.xor_comm (b.val <<< k), ← BitVec.xor_assoc]

/-- R124 fact 6. -/
theorem gf2mod_shiftLeft_self (b : Divisor) {k : Nat} (hk : b.deg + k ≤ 15) : gf2mod (b.val <<< k) b = 0 := by
  simpa using gf2mod_xor_shiftLeft b hk 0

/-- The shift that one turn of the loop makes loses no bit. -/
theorem Divisor.deg_add_alignment_le (b : Divisor) {a : Poly} (h : Machine.deg b.val ≤ Machine.deg a) :
    b.deg + (Machine.deg a - Machine.deg b.val).toNat ≤ 15 := by
  have hb := b.deg_coe
  have ha := deg_le_fifteen a
  omega

/-- R124 fact 5: each turn of the loop adds one shifted divisor. -/
theorem xor_gf2mod_eq_sum_of_shifts (a : Poly) (b : Divisor) :
    ∃ shifts : List Nat, (∀ k ∈ shifts, k + b.deg ≤ 15) ∧
      a ^^^ gf2mod a b = shifts.foldl (fun p k => p ^^^ (b.val <<< k)) 0 := by
  induction a using gf2mod_induction b with
  | below a ha => exact ⟨[], by simp, by simp [gf2mod_of_deg_lt ha]⟩
  | turn a hle ih =>
    obtain ⟨shifts, hfit, hsum⟩ := ih
    have halign := b.deg_add_alignment_le hle
    refine ⟨shifts ++ [(deg a - deg b.val).toNat], ?_, ?_⟩
    · intro k hk
      rcases List.mem_append.1 hk with hk | hk
      · exact hfit k hk
      · rw [List.mem_singleton.1 hk]
        omega
    · rw [List.foldl_append, ← hsum, gf2mod_of_deg_le hle]
      simp only [List.foldl_cons, List.foldl_nil, BitVec.xor_assoc]
      rw [BitVec.xor_comm (gf2mod _ b), ← BitVec.xor_assoc (b.val <<< _), BitVec.xor_self, BitVec.zero_xor]

/-- Settles O28: each turn of the loop adds one shifted divisor, and adding one to 0 leaves its remainder 0. -/
theorem remainderDiffersByMultiple : Obligations.RemainderDiffersByMultiple :=
  fun a b => ⟨xor_gf2mod_eq_sum_of_shifts a b, fun _ => gf2mod_shiftLeft_self b⟩

/-! ### Linearity -/

theorem gf2mod_gf2mod_xor (a c : Poly) (b : Divisor) : gf2mod (gf2mod a b ^^^ c) b = gf2mod (a ^^^ c) b := by
  induction a using gf2mod_induction b with
  | below a ha => rw [gf2mod_of_deg_lt ha]
  | turn a hle ih =>
    rw [gf2mod_of_deg_le hle, ih, BitVec.xor_assoc, BitVec.xor_comm _ c, ← BitVec.xor_assoc,
      gf2mod_xor_shiftLeft b (b.deg_add_alignment_le hle)]

theorem deg_xor_lt_of_lt {a c : Poly} {i : Int} (ha : deg a < i) (hc : deg c < i) : deg (a ^^^ c) < i := by
  obtain ⟨n, rfl⟩ := Int.eq_ofNat_of_zero_le (show 0 ≤ i by have := neg_one_le_deg a; omega)
  exact (deg_lt_iff _ n).2 fun j hj => by simp [(deg_lt_iff a n).1 ha j hj, (deg_lt_iff c n).1 hc j hj]

/-- R124 fact 7: the sum of the remainders is a remainder of the sum, and has the degree of one. -/
theorem gf2mod_xor (a c : Poly) (b : Divisor) : gf2mod (a ^^^ c) b = gf2mod a b ^^^ gf2mod c b := by
  have hsmall : deg (gf2mod a b ^^^ gf2mod c b) < deg b.val :=
    deg_xor_lt_of_lt (deg_gf2mod_lt a b) (deg_gf2mod_lt c b)
  calc gf2mod (a ^^^ c) b = gf2mod (gf2mod a b ^^^ c) b := (gf2mod_gf2mod_xor a c b).symm
    _ = gf2mod (gf2mod c b ^^^ gf2mod a b) b := by rw [BitVec.xor_comm, gf2mod_gf2mod_xor]
    _ = gf2mod a b ^^^ gf2mod c b := by rw [BitVec.xor_comm, gf2mod_of_deg_lt hsmall]

/-- Settles O29: the sum of two remainders is a remainder of the sum, and is its own remainder. -/
theorem remainderIsLinear : Obligations.RemainderIsLinear := gf2mod_xor

end Sys2Proof.Machine
end

section
/-! Codewords and their syndromes (`42_encoder.md` R151, `44_decoder.md` R172): the statements O37, O38, O46 and O47. -/

namespace Sys2Proof.Machine

/-! ### The padded word and its remainder have no bit in common -/

theorem gf2mod_getLsbD (a : Poly) (g : Divisor) {j : Nat} (hj : g.deg ≤ j) : (gf2mod a g).getLsbD j = false := by
  have hlt := deg_gf2mod_lt a g
  rw [← g.deg_coe] at hlt
  exact (deg_lt_iff _ _).1 hlt j hj

theorem codeword_eq_xor (g : Divisor) (m : Poly) : codeword g m = (m <<< g.deg) ^^^ gf2mod (m <<< g.deg) g := by
  apply BitVec.eq_of_getLsbD_eq
  intro j hj
  rcases lt_or_ge j g.deg with hlt | hge
  · simp [codeword, hlt]
  · simp [codeword, gf2mod_getLsbD _ g hge]

/-! ### The layout of a codeword (R151 facts 1, 2, 4, 6 and 7) -/

theorem codeword_getLsbD_low (g : Divisor) (m : Poly) {i : Nat} (hi : i < g.deg) :
    (codeword g m).getLsbD i = (gf2mod (m <<< g.deg) g).getLsbD i := by
  simp [codeword, hi]

/-- A word that fits has no bit that the generator's degree shifts out. -/
theorem encodable.getLsbD_eq_false {g : Divisor} {m : Poly} (h : encodable g m) {i : Nat} (hi : 16 ≤ g.deg + i) :
    m.getLsbD i = false := by
  rcases h with rfl | hfit
  · simp
  · have hg := g.deg_coe
    exact (deg_lt_iff m i).1 (by omega) i le_rfl

theorem codeword_ushiftRight {g : Divisor} {m : Poly} (h : encodable g m) : codeword g m >>> g.deg = m := by
  apply BitVec.eq_of_getLsbD_eq
  intro i _
  have hrem : (gf2mod (m <<< g.deg) g).getLsbD (g.deg + i) = false := gf2mod_getLsbD _ g (by omega)
  rw [BitVec.getLsbD_ushiftRight, codeword, BitVec.getLsbD_or, hrem, Bool.or_false, BitVec.getLsbD_shiftLeft]
  rcases lt_or_ge (g.deg + i) 16 with hlt | hge
  · simp [hlt]
  · simp [h.getLsbD_eq_false hge]

@[simp] theorem codeword_zero (g : Divisor) : codeword g 0#16 = 0#16 := by
  simp [codeword_eq_xor]

theorem deg_codeword {g : Divisor} {m : Poly} (hm : m ≠ 0) (hfit : deg m + deg g.val ≤ 15) :
    deg (codeword g m) = deg m + deg g.val := by
  have hg := g.deg_coe
  obtain ⟨i, -, hi⟩ := exists_deg_eq hm
  have hpadded : deg (m <<< g.deg) = (i + g.deg : Nat) := deg_shiftLeft hi (by omega)
  have hrem := deg_gf2mod_lt (m <<< g.deg) g
  rw [codeword_eq_xor, deg_xor_of_lt (by omega), hpadded]
  omega

theorem codeword_one {g : Divisor} (hg : g.val = 1) (m : Poly) : codeword g m = m := by
  have hone : deg 1 = 0 := by decide
  have hdeg : g.deg = 0 := by
    have := g.deg_coe
    rw [hg, hone] at this
    omega
  have hrem : gf2mod m g = 0#16 :=
    BitVec.eq_of_getLsbD_eq fun j _ => by simp [gf2mod_getLsbD m g (show g.deg ≤ j by omega)]
  simp [codeword, hdeg, hrem]

/-- Settles O37: the check bits lie below the padded word, so each fact is read off the bits or the degree of
the two parts. -/
theorem codewordLayout : Obligations.CodewordLayout := fun g m h =>
  ⟨codeword_ushiftRight h, fun _ => codeword_getLsbD_low g m, codeword_zero g,
    fun hm => deg_codeword hm (h.resolve_left hm), fun hg => codeword_one hg m⟩

/-! ### The code is linear and its words leave no remainder (R151 facts 3 and 5) -/

@[simp] theorem gf2mod_codeword (g : Divisor) (m : Poly) : gf2mod (codeword g m) g = 0#16 := by
  rw [codeword_eq_xor, gf2mod_xor, gf2mod_gf2mod, BitVec.xor_self]

theorem codeword_xor (g : Divisor) (m m' : Poly) : codeword g (m ^^^ m') = codeword g m ^^^ codeword g m' := by
  simp only [codeword_eq_xor, BitVec.shiftLeft_xor_distrib, gf2mod_xor]
  ac_rfl

/-- Settles O38: a codeword is the padded word plus its remainder, and both are linear in the word. -/
theorem codewordsLeaveNoRemainder : Obligations.CodewordsLeaveNoRemainder :=
  fun g m m' _ _ => ⟨gf2mod_codeword g m, codeword_xor g m m'⟩

/-! ### Syndromes (R172 facts 1 and 2) -/

@[simp] theorem errorDetected_codeword (g : Divisor) (m : Poly) : errorDetected g (codeword g m) = false := by
  simp [errorDetected, syndrome]

theorem syndrome_codeword_xor (g : Divisor) (m e : Poly) : syndrome g (codeword g m ^^^ e) = gf2mod e g := by
  rw [syndrome, gf2mod_xor, gf2mod_codeword, BitVec.zero_xor]

/-- Settles O46: a codeword has remainder 0, and the remainder is linear. -/
theorem syndromeSeesOnlyTheErrorPattern : Obligations.SyndromeSeesOnlyTheErrorPattern :=
  fun g m e h => ⟨codeword_ushiftRight h, errorDetected_codeword g m, syndrome_codeword_xor g m e⟩

/-! ### Single-bit errors (R172 fact 4) -/

/-- Multiplying by `x` and taking remainders can be done in either order, as long as no bit is shifted out. -/
theorem gf2mod_shiftLeft_one {a : Poly} (g : Divisor) (ha : deg a < 15) :
    gf2mod (a <<< 1) g = gf2mod (gf2mod a g <<< 1) g := by
  induction a using gf2mod_induction g with
  | below a hlt => rw [gf2mod_of_deg_lt hlt]
  | turn a hle ih =>
    have hg := g.deg_coe
    have hdrop := deg_xor_aligned_lt g.property hle
    rw [gf2mod_of_deg_le hle, ← ih (by omega), BitVec.shiftLeft_xor_distrib, ← BitVec.shiftLeft_add,
      gf2mod_xor_shiftLeft g (by omega)]

theorem one_le_deg_of_constant_term {g : Poly} (hconst : g.getLsbD 0 = true) (hne : g ≠ 1) : 1 ≤ deg g := by
  by_contra hlt
  apply hne
  apply BitVec.eq_of_getLsbD_eq
  intro j _
  rcases Nat.eq_zero_or_pos j with rfl | hj
  · simp [hconst]
  · have hhigh := (deg_lt_iff g 1).1 (by omega) j hj
    simp [hhigh, hj.ne']

/-- A generator with constant term 1 does not divide `x * r` for a nonzero `r` of lower degree: the only multiple of
that degree is the generator itself. -/
theorem gf2mod_shiftLeft_one_ne_zero {g : Divisor} (hconst : g.val.getLsbD 0 = true) {r : Poly} (hr : r ≠ 0)
    (hlt : deg r < deg g.val) : gf2mod (r <<< 1) g ≠ 0 := by
  obtain ⟨i, -, hi⟩ := exists_deg_eq hr
  have hg15 := deg_le_fifteen g.val
  have hshift : deg (r <<< 1) = (i + 1 : Nat) := deg_shiftLeft hi (by omega)
  intro hzero
  rcases lt_or_ge (deg (r <<< 1)) (deg g.val) with hbelow | hreach
  · rw [gf2mod_of_deg_lt hbelow] at hzero
    rw [hzero, deg_zero] at hshift
    omega
  · have halign : (deg (r <<< 1) - deg g.val).toNat = 0 := by omega
    have hdrop := deg_xor_aligned_lt g.property hreach
    rw [gf2mod_of_deg_le hreach, gf2mod_of_deg_lt (by omega), halign, BitVec.shiftLeft_zero] at hzero
    have hbit : (r <<< 1 ^^^ g.val).getLsbD 0 = true := by
      rw [BitVec.getLsbD_xor, BitVec.getLsbD_shiftLeft, hconst]
      rfl
    rw [hzero] at hbit
    cases hbit

theorem deg_twoPow {i : Nat} (hi : i < 16) : deg (BitVec.twoPow 16 i) = i := by
  rw [deg_eq_iff]
  simp only [BitVec.getLsbD_twoPow]
  exact ⟨by simp [hi], fun j hj => by simp [hj.ne]⟩

theorem gf2mod_twoPow_ne_zero {g : Divisor} (hconst : g.val.getLsbD 0 = true) (hne : g.val ≠ 1) {i : Nat}
    (hi : i < 16) : gf2mod (BitVec.twoPow 16 i) g ≠ 0 := by
  induction i with
  | zero =>
    have hg := one_le_deg_of_constant_term hconst hne
    have hone := deg_twoPow hi
    rw [gf2mod_of_deg_lt (by omega)]
    decide
  | succ i ih =>
    have hdeg := deg_twoPow (show i < 16 by omega)
    have hnext : BitVec.twoPow 16 (i + 1) = BitVec.twoPow 16 i <<< 1 := by
      rw [BitVec.twoPow_eq, BitVec.shiftLeft_add, ← BitVec.twoPow_eq]
    rw [hnext, gf2mod_shiftLeft_one g (by omega)]
    exact gf2mod_shiftLeft_one_ne_zero hconst (ih (by omega)) (deg_gf2mod_lt _ g)

/-- Settles O47: the syndrome is the remainder of a power of `x`, which such a generator does not divide. -/
theorem singleBitErrorsAreDetected : Obligations.SingleBitErrorsAreDetected := by
  intro g m i _ hi hconst hne
  have hsyndrome : syndrome g (codeword g m ^^^ BitVec.twoPow 16 i) ≠ 0 := by
    rw [syndrome_codeword_xor]
    exact gf2mod_twoPow_ne_zero hconst hne hi
  exact bne_iff_ne.2 hsyndrome

end Sys2Proof.Machine
end

section
/-! The error pattern of a transmission (`43_channel.md` R160, R161, R164): the statements O39 and O40. -/

namespace Sys2Proof.Machine

/-- The bits that the draws flip: the first draw decides the most significant one (R161). -/
def errorPattern (threshold : Threshold) : List Draw → Poly
  | [] => 0
  | u :: us => (if flips u threshold then BitVec.twoPow 16 us.length else 0) ^^^ errorPattern threshold us

/-- A transmission adds the error pattern of its draws, and its flag says whether any of them flips. -/
theorem transmit_eq (threshold : Threshold) (us : List Draw) (c : Poly) :
    transmit threshold us c = (c ^^^ errorPattern threshold us, us.any (flips · threshold)) := by
  induction us generalizing c with
  | nil => simp [transmit, errorPattern]
  | cons u us ih =>
    by_cases hflip : flips u threshold = true
    · simp [transmit, errorPattern, hflip, ih, flipBit, BitVec.xor_assoc]
    · simp [transmit, errorPattern, hflip, ih]

/-- Bit `i` of the error pattern is decided by the draw `i` places from the end. -/
theorem errorPattern_getLsbD (threshold : Threshold) {us : List Draw} (hlen : us.length ≤ 16) (i : Nat) :
    (errorPattern threshold us).getLsbD i = us.reverse[i]?.any (flips · threshold) := by
  induction us with
  | nil => simp [errorPattern]
  | cons u us ih =>
    have hw : us.length < 16 := by simpa using hlen
    have hhead : (if flips u threshold then BitVec.twoPow 16 us.length else 0).getLsbD i =
        (decide (us.length = i) && flips u threshold) := by
      split <;> simp_all [BitVec.getLsbD_twoPow]
    rw [errorPattern, BitVec.getLsbD_xor, ih hw.le, hhead, List.reverse_cons]
    rcases lt_trichotomy i us.length with hlt | rfl | hgt
    · rw [List.getElem?_append_left (by simpa using hlt)]
      simp [hlt.ne']
    · simp
    · rw [List.getElem?_eq_none (by simp; omega), List.getElem?_eq_none (by simp; omega)]
      simp [hgt.ne]

theorem errorPattern_of_no_flip {threshold : Threshold} {us : List Draw} (h : us.any (flips · threshold) = false) :
    errorPattern threshold us = 0#16 := by
  induction us with
  | nil => rfl
  | cons u us ih =>
    obtain ⟨hu, hus⟩ := Bool.or_eq_false_iff.1 h
    simp [errorPattern, hu, ih hus]

theorem errorPattern_ne_zero_iff (threshold : Threshold) {us : List Draw} (hlen : us.length ≤ 16) :
    errorPattern threshold us ≠ 0#16 ↔ us.any (flips · threshold) = true := by
  constructor
  · intro hne
    by_contra hnone
    exact hne (errorPattern_of_no_flip (Bool.eq_false_iff.2 hnone))
  · intro hany hzero
    obtain ⟨u, hu, hflip⟩ := List.any_eq_true.1 hany
    obtain ⟨i, hi⟩ := List.mem_iff_getElem?.1 (List.mem_reverse.2 hu)
    have hbit := errorPattern_getLsbD threshold hlen i
    simp [hi, hzero, hflip] at hbit

/-- Settles O39: the transmission adds `errorPattern`, whose bits are the draws' decisions in reverse. -/
theorem errorPatternOfTransmission : Obligations.ErrorPatternOfTransmission := by
  intro threshold us c hlen
  have hpattern : (transmit threshold us c).1 ^^^ c = errorPattern threshold us := by
    rw [transmit_eq, BitVec.xor_comm, ← BitVec.xor_assoc, BitVec.xor_self, BitVec.zero_xor]
  refine hpattern ▸ ⟨fun i hi => ?_, fun i hi => ?_, ?_⟩
  · rw [errorPattern_getLsbD threshold hlen, List.getElem?_eq_getElem (by simpa using hi), List.getElem_reverse]
    rfl
  · rw [errorPattern_getLsbD threshold hlen, List.getElem?_eq_none (by simpa using hi)]
    rfl
  · rw [show (transmit threshold us c).2 = us.any (flips · threshold) by rw [transmit_eq],
      ← errorPattern_ne_zero_iff threshold hlen, ← hpattern, ne_eq, BitVec.xor_eq_zero_iff]

/-! ### The certain channels (R164 facts 3 and 4) -/

@[simp] theorem flips_probOne (u : Draw) : flips u 0x10000#17 = false := by
  have := u.isLt
  simp [flips]
  omega

@[simp] theorem flips_zero (u : Draw) : flips u 0#17 = true := by
  simp [flips]

/-- Settles O40: with one threshold no draw flips, with the other each does. -/
theorem certainChannels : Obligations.CertainChannels := by
  refine fun us c hlen => ⟨?_, ?_⟩
  · have hnone : us.any (flips · 0x10000) = false := List.any_eq_false.2 fun u _ => by simp
    rw [transmit_eq, hnone, errorPattern_of_no_flip hnone, BitVec.xor_zero]
  · have hany : us.any (flips · 0) = decide (1 ≤ us.length) := by
      cases us <;> simp
    have hall : errorPattern 0 us = BitVec.ofNat 16 (2 ^ us.length - 1) := by
      apply BitVec.eq_of_getLsbD_eq
      intro i hi
      rw [errorPattern_getLsbD 0 hlen, BitVec.getLsbD_ofNat, Nat.testBit_two_pow_sub_one]
      rcases lt_or_ge i us.length with hlt | hge
      · rw [List.getElem?_eq_getElem (by simpa using hlt)]
        simp [hi, hlt]
      · rw [List.getElem?_eq_none (by simpa using hge)]
        simp [hge]
    rw [transmit_eq, hany, hall]

end Sys2Proof.Machine
end

section
/-! The bit sequences (`20_memory.md` R64 to R67), `STATUS` as it is read (`10_state.md` R32), the information word of a
trial (`45_statistics.md` R180) and the cause codes (`60_exceptions.md` R201): the statements O59, O24, O48 and O11. -/

namespace Sys2Proof.Machine

/-! ### Bit sequences -/

theorem bitsFrom_length (v : Poly) (n : Nat) : (bitsFrom v n).length = n := by
  induction n with
  | zero => rfl
  | succ n ih => simp [bitsFrom, ih]

/-- Reading on from a number `acc` shifts it up by the bits read. -/
theorem foldl_bitsFrom (v : Poly) (n acc : Nat) :
    (bitsFrom v n).foldl (fun n b => 2 * n + b.toNat) acc = acc * 2 ^ n + v.toNat % 2 ^ n := by
  induction n generalizing acc with
  | zero => simp [bitsFrom, Nat.mod_one]
  | succ n ih =>
    rw [bitsFrom, List.foldl_cons, ih, Nat.mod_pow_succ, BitVec.getLsbD, Nat.toNat_testBit]
    ring

theorem toNat_lt_two_pow_blen (v : Poly) : v.toNat < 2 ^ blen v := by
  apply Nat.lt_pow_two_of_testBit
  intro j hj
  by_cases hv : v = 0
  · simp [hv]
  · have hdeg := deg_nonneg_of_ne_zero hv
    rw [blen, if_neg hv] at hj
    exact (deg_lt_iff v ((deg v).toNat + 1)).1 (by omega) j hj

/-- The two renderings name the same bits: the degree is -1 only for the zero polynomial. -/
theorem polynomialToBits_eq_intToBits (v : Poly) : polynomialToBits v = intToBits v := by
  by_cases hv : v = 0
  · rw [hv]
    decide
  · have hdeg := deg_nonneg_of_ne_zero hv
    rw [polynomialToBits, if_neg (not_lt.2 hdeg), intToBits, blen, if_neg hv]

/-- Settles O59: `n` bits read back as the value modulo `2 ^ n`, and a value has no bit from `blen` on. -/
theorem bitSequencesRoundTrip : Obligations.BitSequencesRoundTrip := by
  refine fun v => ⟨bitsFrom_length v _, polynomialToBits_eq_intToBits v, ?_⟩
  rw [bitsToNat, intToBits, foldl_bitsFrom, Nat.mod_eq_of_lt (toNat_lt_two_pow_blen v)]
  omega

/-! ### `STATUS` -/

theorem Status.word_field_bits (t : Status) :
    t.word.getLsbD 0 = t.flip ∧ t.word.getLsbD 1 = t.errdet ∧ t.word.getLsbD 2 = t.halt := by
  obtain ⟨flip, errdet, halt⟩ := t
  revert flip errdet halt
  decide

theorem Status.word_high_bits (t : Status) {i : Nat} (hi : 3 ≤ i) : t.word.getLsbD i = false := by
  rw [Status.word, BitVec.getLsbD_setWidth, BitVec.getLsbD_of_ge _ _ hi, Bool.and_false]

/-- Settles O24: the three fields' bits, and the zeros of the widening above them. -/
theorem statusBits : Obligations.StatusBits := fun t =>
  have ⟨hflip, herrdet, hhalt⟩ := t.word_field_bits
  ⟨hflip, herrdet, hhalt, fun _ => t.word_high_bits⟩

/-! ### The information word of a trial -/

theorem infoword_toNat (u : Draw) {k : Nat} (hk : k ≤ 16) : (infoword u k).toNat = u.toNat / 2 ^ (16 - k) := by
  rcases Nat.eq_zero_or_pos k with rfl | hpos
  · exact (Nat.div_eq_of_lt u.isLt).symm
  · rw [infoword, if_neg hpos.ne', BitVec.toNat_ushiftRight, Nat.shiftRight_eq_div_pow]

theorem infoword_lt (u : Draw) {k : Nat} (hk : k ≤ 16) : (infoword u k).toNat < 2 ^ k := by
  rw [infoword_toNat u hk, Nat.div_lt_iff_lt_mul (by positivity), ← pow_add, Nat.add_sub_cancel' hk]
  exact u.isLt

/-- Settles O48: a shift right is a division by a power of two. -/
theorem infowordIsTopBits : Obligations.InfowordIsTopBits :=
  fun u _ hk => ⟨infoword_toNat u hk, infoword_lt u hk⟩

/-! ### Cause codes -/

/-- Settles O11: by the definition of `Cause.code`. -/
theorem causeCodes : Obligations.CauseCodes := ⟨rfl, rfl, rfl, rfl, rfl, rfl⟩

end Sys2Proof.Machine
end

section
/-! What a command does, said once for all twelve: it does nothing, raises the fault that `firstFault` names, or draws
what `tableDraws` says and completes (`60_exceptions.md` R212, `20_memory.md` R72). -/

namespace Sys2Proof.Machine

/-! ### Trials as a function of their draws -/

/-- What `n` trials record of the draws `us`: those of the first trial, then those of the second, and so on. -/
def State.recordTrials (g : Divisor) : Nat → List Draw → State → State
  | 0, _, s => s
  | _ + 1, [], s => s
  | n + 1, u :: us, s =>
    State.recordTrials g n (us.drop (trialWidth g s)) (s.recordTrial g u (us.take (trialWidth g s)))

theorem State.recordTransmission_setSource (s : State) (d : RandomSource) (any : Bool) :
    (s.setSource d).recordTransmission any = (s.recordTransmission any).setSource d := by
  cases any <;> rfl

theorem State.recordDecode_setSource (s : State) (d : RandomSource) (detected : Bool) (syn : Poly) :
    (s.setSource d).recordDecode detected syn = (s.recordDecode detected syn).setSource d := by
  cases detected <;> rfl

theorem State.recordTrial_setSource (s : State) (d : RandomSource) (g : Divisor) (u : Draw) (us : List Draw) :
    (s.setSource d).recordTrial g u us = (s.recordTrial g u us).setSource d := by
  rw [State.recordTrial, State.recordTransmission_setSource, State.recordDecode_setSource]
  rfl

@[simp] theorem trialWidth_setSource (g : Divisor) (s : State) (d : RandomSource) :
    trialWidth g (s.setSource d) = trialWidth g s := rfl

@[simp] theorem trialWidth_recordTrial (g : Divisor) (s : State) (u : Draw) (us : List Draw) :
    trialWidth g (s.recordTrial g u us) = trialWidth g s := by
  obtain ⟨⟨-, -, -, hkw, -⟩, -⟩ := s.recordTrial_frame g u us
  rw [trialWidth, hkw, trialWidth]

theorem State.recordTrials_setSource (d : RandomSource) (g : Divisor) (n : Nat) (us : List Draw) (s : State) :
    (s.setSource d).recordTrials g n us = (s.recordTrials g n us).setSource d := by
  induction n generalizing us s with
  | zero => rfl
  | succ n ih =>
    cases us with
    | nil => rfl
    | cons u us =>
      rw [State.recordTrials, State.recordTrial_setSource, ih, trialWidth_setSource]
      rfl

theorem trial_eq_none {g : Divisor} {s : State} (h : trial g s = none) :
    s.source.take (1 + trialWidth g s) = none := by
  rw [← Option.isNone_iff_eq_none, ← Option.not_isSome, RandomSource.take_isSome, ← trial_isSome, h]
  rfl

/-- Trials take all their draws and record them. -/
theorem trials_eq (g : Divisor) (n : Nat) (s : State) :
    trials g n s = (s.source.take (n * (1 + trialWidth g s))).map
      fun p => (s.recordTrials g n p.1).setSource p.2 := by
  induction n generalizing s with
  | zero => rw [Nat.zero_mul]; rfl
  | succ n ih =>
    have hcount : (n + 1) * (1 + trialWidth g s) = (1 + trialWidth g s) + n * (1 + trialWidth g s) := by ring
    rw [trials_succ, hcount, RandomSource.take_add]
    cases h : trial g s with
    | none => rw [trial_eq_none h]; rfl
    | some t =>
      obtain ⟨u, us, d, htake, rfl⟩ := trial_spec h
      obtain ⟨hlen, -⟩ := RandomSource.take_spec _ htake
      have hus : us.length = trialWidth g s := by simpa [Nat.add_comm] using hlen
      have hsource : ((s.setSource d).recordTrial g u us).source = d := (State.recordTrial_frame _ g u us).2
      rw [htake, Option.bind_some, Option.bind_some, ih, trialWidth_recordTrial, trialWidth_setSource, hsource,
        Option.map_map]
      congr 1
      funext p
      rw [State.recordTrial_setSource, State.recordTrials_setSource, Function.comp_apply, List.cons_append,
        State.recordTrials, ← hus, List.drop_left, List.take_left]
      rfl

theorem State.afterTrials_eq (s : State) (n : Nat) (g : Divisor) :
    s.afterTrials n g = s.drawing (n * (1 + trialWidth g s)) fun us t => t.recordTrials g n us := by
  rw [State.afterTrials, State.drawing, trials_eq]
  cases s.source.take (n * (1 + trialWidth g s)) with
  | none => rfl
  | some p => exact (State.recordTrials_setSource p.2 g n p.1 s).symm

/-! ### The effect of every command -/

/-- What is done with a value as divisor, and nothing if it is zero: the checks rule that out. -/
def State.dividing (s : State) (b : Poly) (use : Divisor → State) : State := if h : b = 0 then s else use ⟨b, h⟩

theorem State.dividing_of_val_eq (s : State) {g : Divisor} {b : Poly} (h : g.val = b) (use : Divisor → State) :
    s.dividing b use = use g := by
  subst h
  exact dif_neg g.property

/-- The state in which a command that passes its checks leaves the engine, by the draws it consumes. -/
def completion : Instr → List Draw → State → State
  | .ldi rd imm16, _, s => s.writeX rd imm16
  | .deg rd rs1, _, s => s.writeX rd (degreeWord (s.readX rs1))
  | .mod rd rs1 rs2, _, s => s.dividing (s.readX rs2) fun b => s.writeX rd (gf2mod (s.readX rs1) b)
  | .setg rs1, _, s => s.setGen (s.readX rs1)
  | .setp imm24, _, s => s.setProb (imm24.extractLsb' 0 17)
  | .setk imm24, _, s => s.setKw (imm24.extractLsb' 0 5)
  | .enc rd rs1, _, s => s.dividing s.gen fun g => s.writeX rd (codeword g (s.readX rs1))
  | .tx rd rs1 _, us, s =>
    (s.writeX rd (transmit s.prob us (s.readX rs1)).1).recordTransmission (transmit s.prob us (s.readX rs1)).2
  | .dec rd rs1, _, s => s.dividing s.gen fun g =>
    (s.writeX rd (informationWord g (s.readX rs1))).recordDecode
      (errorDetected g (s.readX rs1)) (syndrome g (s.readX rs1))
  | .trial, us, s => s.dividing s.gen fun g => s.recordTrials g 1 us
  | .run imm24, us, s => s.dividing s.gen fun g => s.recordTrials g imm24.toNat us
  | .rate, _, s => s

section
variable {g : Divisor} {s : State} (us : List Draw)

theorem completion_mod {rs2 : RegNum} (hg : g.val = s.readX rs2) (rd rs1 : RegNum) :
    completion (.mod rd rs1 rs2) us s = s.writeX rd (gf2mod (s.readX rs1) g) :=
  s.dividing_of_val_eq hg fun g => s.writeX rd (gf2mod (s.readX rs1) g)

theorem completion_enc (hg : g.val = s.gen) (rd rs1 : RegNum) :
    completion (.enc rd rs1) us s = s.writeX rd (codeword g (s.readX rs1)) :=
  s.dividing_of_val_eq hg fun g => s.writeX rd (codeword g (s.readX rs1))

theorem completion_dec (hg : g.val = s.gen) (rd rs1 : RegNum) :
    completion (.dec rd rs1) us s = (s.writeX rd (informationWord g (s.readX rs1))).recordDecode
      (errorDetected g (s.readX rs1)) (syndrome g (s.readX rs1)) :=
  s.dividing_of_val_eq hg fun g => (s.writeX rd (informationWord g (s.readX rs1))).recordDecode
    (errorDetected g (s.readX rs1)) (syndrome g (s.readX rs1))

theorem completion_trial : completion .trial us s = completion (.run 1) us s := rfl

theorem completion_run (hg : g.val = s.gen) (imm24 : BitVec 24) :
    completion (.run imm24) us s = s.recordTrials g imm24.toNat us :=
  s.dividing_of_val_eq hg fun g => s.recordTrials g imm24.toNat us

end

theorem State.dividing_setSource (s : State) (d : RandomSource) (b : Poly) {use use' : Divisor → State}
    (h : ∀ g, use' g = (use g).setSource d) : (s.setSource d).dividing b use' = (s.dividing b use).setSource d := by
  unfold State.dividing
  split
  · rfl
  · exact h _

/-- No effect depends on the random source, but through the draws. -/
theorem completion_setSource (i : Instr) (us : List Draw) (s : State) (d : RandomSource) :
    completion i us (s.setSource d) = (completion i us s).setSource d := by
  cases i with
  | mod rd rs1 rs2 => unfold completion; exact s.dividing_setSource d (s.readX rs2) fun _ => rfl
  | enc rd rs1 => unfold completion; exact s.dividing_setSource d s.gen fun _ => rfl
  | dec rd rs1 =>
    unfold completion
    exact s.dividing_setSource d s.gen fun g =>
      (s.writeX rd (informationWord g (s.readX rs1))).recordDecode_setSource d _ _
  | tx rd rs1 w => exact (s.writeX rd (transmit s.prob us (s.readX rs1)).1).recordTransmission_setSource d _
  | trial => exact s.dividing_setSource d s.gen fun g => s.recordTrials_setSource d g 1 us
  | run imm24 => exact s.dividing_setSource d s.gen fun g => s.recordTrials_setSource d g imm24.toNat us
  | _ => rfl

/-! ### The first fault is the first check that fails -/

theorem cause_of_ite {bad : Prop} [Decidable bad] {f e : Cause} (h : (if bad then some f else none) = some e) :
    bad ∧ e = f := by
  split at h <;> simp_all

theorem encChecks_of_firstFault {rd rs1 : RegNum} {s : State} {f : Cause} (h : firstFault (.enc rd rs1) s = some f) :
    encChecks s.gen (s.readX rs1) = .error f := by
  simp only [firstFault] at h
  split_ifs at h with hzero hlong <;> cases h
  · rw [hzero]
    exact encChecks_zero _
  · exact encChecks_of_not_encodable (g := ⟨s.gen, hzero⟩) (not_or.2 ⟨hlong.1, not_le.2 hlong.2⟩)

theorem txChecks_of_firstFault {rd rs1 : RegNum} {w : BitVec 5} {s : State} {f : Cause}
    (h : firstFault (.tx rd rs1 w) s = some f) : txChecks s rs1 w = .error f := by
  simp only [firstFault] at h
  split_ifs at h with hwide hhigh hfull <;> cases h
  · exact txChecks_of_operands_error (transmissionOperands_of_wide _ hwide)
  · exact txChecks_of_operands_error (transmissionOperands_of_high_bit (not_lt.1 hwide) hhigh)
  · exact txChecks_of_sent_max (not_lt.1 hwide) (not_not.1 hhigh) hfull

theorem decChecks_of_firstFault {rd rs1 : RegNum} {s : State} {f : Cause} (h : firstFault (.dec rd rs1) s = some f) :
    decChecks s = .error f := by
  simp only [firstFault] at h
  split_ifs at h with hzero hfull <;> cases h
  · exact decChecks_of_gen_zero hzero
  · exact decChecks_of_det_max hzero hfull

/-- `TRIAL` makes the checks of `RUN 1`. -/
theorem firstFault_trial (s : State) : firstFault .trial s = firstFault (.run 1) s := by
  have full : ∀ c : Counter, c = 0xFFFFFFFF ↔ 0xFFFFFFFF < c.toNat + (1 : BitVec 24).toNat := by
    intro c
    have hmax := c.isLt
    rw [← BitVec.toNat_inj]
    show c.toNat = 4294967295 ↔ 4294967295 < c.toNat + 1
    omega
  simp only [firstFault, full]
  rfl

theorem trialChecks_of_firstFault {imm24 : BitVec 24} {s : State} {f : Cause}
    (h : firstFault (.run imm24) s = some f) : trialChecks s imm24.toNat = .error f := by
  have hmax := imm24.isLt
  simp only [firstFault] at h
  split_ifs at h with hzero hcount hwide hsent hdet <;> cases h
  · exact trialChecks_of_gen_zero hzero _
  · exact trialChecks_of_out_of_range (g := ⟨s.gen, hzero⟩) rfl (.inl (by simp [hcount]))
  all_goals
    have hwidth : (trialWidth ⟨s.gen, hzero⟩ s : Int) = s.kw.toNat + deg s.gen := trialWidth_coe ⟨s.gen, hzero⟩ s
    have hpos : imm24.toNat ≠ 0 := fun h => hcount (BitVec.eq_of_toNat_eq h)
  · exact trialChecks_of_out_of_range (g := ⟨s.gen, hzero⟩) rfl (.inr (by omega))
  · exact trialChecks_of_counter_full (g := ⟨s.gen, hzero⟩) rfl hpos (by omega) (by omega) (.inl hsent)
  · exact trialChecks_of_counter_full (g := ⟨s.gen, hzero⟩) rfl hpos (by omega) (by omega) (.inr hdet)

/-- R212: a ready engine raises the first fault and does nothing else. -/
theorem exec_of_firstFault {i : Instr} {s : State} {f : Cause} (hr : s.ready = true) (h : firstFault i s = some f) :
    exec i s = .next (s.raise f (encode i)) := by
  cases i with
  | ldi rd imm16 => cases h
  | deg rd rs1 => cases h
  | setg rs1 => cases h
  | mod rd rs1 rs2 =>
    have hc := (divisor_eq_error _ _ f).2 (cause_of_ite h)
    exact (exec_mod s rd rs1 rs2).trans (State.runCommand_error _ _ _ _ hr hc)
  | setp imm24 =>
    have hc := (thresholdOperand_eq_error _ f).2 (cause_of_ite h)
    exact (exec_setp s imm24).trans (State.runCommand_error _ _ _ _ hr hc)
  | setk imm24 =>
    have hc := (widthOperand_eq_error _ f).2 (cause_of_ite h)
    exact (exec_setk s imm24).trans (State.runCommand_error _ _ _ _ hr hc)
  | enc rd rs1 => exact (exec_enc s rd rs1).trans (State.runCommand_error _ _ _ _ hr (encChecks_of_firstFault h))
  | tx rd rs1 w => exact (exec_tx s rd rs1 w).trans (State.runCommand_error _ _ _ _ hr (txChecks_of_firstFault h))
  | dec rd rs1 => exact (exec_dec s rd rs1).trans (State.runCommand_error _ _ _ _ hr (decChecks_of_firstFault h))
  | trial =>
    rw [firstFault_trial] at h
    exact (exec_trial s).trans (State.runCommand_error _ _ _ _ hr (trialChecks_of_firstFault h))
  | run imm24 => exact (exec_run s imm24).trans (State.runCommand_error _ _ _ _ hr (trialChecks_of_firstFault h))
  | rate =>
    have hc := (check_eq_error _ _ f).2 (cause_of_ite h)
    exact (exec_rate s).trans (State.runCommand_error _ _ _ _ hr hc)

/-! ### A command without a fault passes its checks and draws -/

theorem not_of_ite_eq_none {bad : Prop} [Decidable bad] {f : Cause} (h : (if bad then some f else none) = none) :
    ¬ bad := by
  split at h <;> simp_all

theorem divisor_of_no_fault {b : Poly} {f : Cause} (h : (if b = 0 then some f else none) = none) :
    ∃ g : Divisor, g.val = b := ⟨⟨b, not_of_ite_eq_none h⟩, rfl⟩

theorem encChecks_of_no_fault {rd rs1 : RegNum} {s : State} (h : firstFault (.enc rd rs1) s = none) :
    ∃ g : Divisor, g.val = s.gen ∧ encChecks s.gen (s.readX rs1) = .ok g := by
  simp only [firstFault] at h
  split_ifs at h with hzero hlong
  have hfits : encodable ⟨s.gen, hzero⟩ (s.readX rs1) := by
    by_contra hno
    obtain ⟨hm, hdeg⟩ := not_or.1 hno
    exact hlong ⟨hm, not_le.1 hdeg⟩
  exact ⟨⟨s.gen, hzero⟩, rfl, (encChecks_eq_ok _ _ _).2 ⟨rfl, hfits⟩⟩

theorem txChecks_of_no_fault {rd rs1 : RegNum} {w : BitVec 5} {s : State} (h : firstFault (.tx rd rs1 w) s = none) :
    txChecks s rs1 w = .ok () := by
  simp only [firstFault] at h
  split_ifs at h with hwide hhigh hfull
  exact (txChecks_eq_ok s rs1 w ()).2 ⟨not_lt.1 hwide, not_not.1 hhigh, toNat_lt_counterMax_of_ne hfull⟩

theorem decChecks_of_no_fault {rd rs1 : RegNum} {s : State} (h : firstFault (.dec rd rs1) s = none) :
    ∃ g : Divisor, g.val = s.gen ∧ decChecks s = .ok g := by
  simp only [firstFault] at h
  split_ifs at h with hzero hfull
  exact ⟨⟨s.gen, hzero⟩, rfl, (decChecks_eq_ok s _).2 ⟨rfl, toNat_lt_counterMax_of_ne hfull⟩⟩

theorem firstFault_run_eq_none_iff (imm24 : BitVec 24) (s : State) :
    firstFault (.run imm24) s = none ↔ s.gen ≠ 0 ∧ imm24 ≠ 0 ∧ (s.kw.toNat : Int) + deg s.gen ≤ 16 ∧
      s.sent.toNat + imm24.toNat ≤ 4294967295 ∧ s.det.toNat + imm24.toNat ≤ 4294967295 := by
  simp only [firstFault, ← not_lt]
  split_ifs <;> simp_all

theorem trialChecks_of_no_fault {imm24 : BitVec 24} {s : State} (h : firstFault (.run imm24) s = none) :
    ∃ g : Divisor, g.val = s.gen ∧ trialChecks s imm24.toNat = .ok g := by
  obtain ⟨hgen, hcount, hwide, hsent, hdet⟩ := (firstFault_run_eq_none_iff imm24 s).1 h
  have hmax := imm24.isLt
  have hwidth : (trialWidth ⟨s.gen, hgen⟩ s : Int) = s.kw.toNat + deg s.gen := trialWidth_coe ⟨s.gen, hgen⟩ s
  have hpos : imm24.toNat ≠ 0 := fun h => hcount (BitVec.eq_of_toNat_eq h)
  exact ⟨⟨s.gen, hgen⟩, rfl, (trialChecks_eq_ok s _ _ (by omega)).2 ⟨rfl, hpos, by omega, hsent, hdet⟩⟩

/-- The draws of one trial (R72, R181), in the table's form. -/
theorem one_add_trialWidth {g : Divisor} {s : State} (hg : g.val = s.gen) :
    1 + trialWidth g s = 1 + s.kw.toNat + (deg s.gen).toNat := by
  rw [trialWidth, Divisor.deg, hg, Nat.add_assoc]

theorem State.afterTrials_eq_drawing {s : State} {g : Divisor} (hg : g.val = s.gen) (n : Nat) :
    s.afterTrials n g = s.drawing (n * (1 + s.kw.toNat + (deg s.gen).toNat)) fun us t =>
      t.dividing t.gen fun g => t.recordTrials g n us := by
  rw [State.afterTrials_eq, one_add_trialWidth hg, State.drawing, State.drawing]
  cases s.source.take (n * (1 + s.kw.toNat + (deg s.gen).toNat)) with
  | none => rfl
  | some p =>
    exact ((s.setSource p.2).dividing_of_val_eq hg fun g => (s.setSource p.2).recordTrials g n p.1).symm

/-- R72, R212: a ready engine in which no check fails draws what the table says and completes, or waits. -/
theorem exec_of_no_fault {i : Instr} {s : State} (hr : s.ready = true) (h : firstFault i s = none) :
    exec i s = .next (s.drawing (tableDraws i s) (completion i)) := by
  cases i with
  | ldi rd imm16 => exact (exec_ldi s rd imm16).trans (State.runCommand_ok _ _ _ _ hr rfl)
  | deg rd rs1 => exact (exec_deg s rd rs1).trans (State.runCommand_ok _ _ _ _ hr rfl)
  | setg rs1 => exact (exec_setg s rs1).trans (State.runCommand_ok _ _ _ _ hr rfl)
  | mod rd rs1 rs2 =>
    obtain ⟨b, hb⟩ := divisor_of_no_fault h
    rw [exec_mod, State.runCommand_ok _ _ _ _ hr ((divisor_eq_ok _ _ b).2 hb)]
    exact congrArg _ (completion_mod [] hb rd rs1).symm
  | setp imm24 =>
    have hc := (thresholdOperand_eq_ok imm24 _).2 ⟨not_lt.1 (not_of_ite_eq_none h), rfl⟩
    exact (exec_setp s imm24).trans (State.runCommand_ok _ _ _ _ hr hc)
  | setk imm24 =>
    have hc := (widthOperand_eq_ok imm24 _).2 ⟨not_lt.1 (not_of_ite_eq_none h), rfl⟩
    exact (exec_setk s imm24).trans (State.runCommand_ok _ _ _ _ hr hc)
  | enc rd rs1 =>
    obtain ⟨g, hg, hc⟩ := encChecks_of_no_fault h
    rw [exec_enc, State.runCommand_ok _ _ _ _ hr hc]
    exact congrArg _ (completion_enc [] hg rd rs1).symm
  | tx rd rs1 w => exact (exec_tx s rd rs1 w).trans (State.runCommand_ok _ _ _ _ hr (txChecks_of_no_fault h))
  | dec rd rs1 =>
    obtain ⟨g, hg, hc⟩ := decChecks_of_no_fault h
    rw [exec_dec, State.runCommand_ok _ _ _ _ hr hc]
    exact congrArg _ (completion_dec [] hg rd rs1).symm
  | trial =>
    rw [firstFault_trial] at h
    obtain ⟨g, hg, (hc : trialChecks s 1 = .ok g)⟩ := trialChecks_of_no_fault h
    rw [exec_trial, State.runCommand_ok _ _ _ _ hr hc, State.afterTrials_eq_drawing hg, Nat.one_mul]
    rfl
  | run imm24 =>
    obtain ⟨g, hg, hc⟩ := trialChecks_of_no_fault h
    rw [exec_run, State.runCommand_ok _ _ _ _ hr hc, State.afterTrials_eq_drawing hg]
    rfl
  | rate =>
    exact (exec_rate s).trans (State.runCommand_ok _ _ _ _ hr (check_neg .divisionByZero (not_of_ite_eq_none h)))

/-! ### Everything a command can do -/

theorem exec_of_not_ready {i : Instr} {s : State} (hr : s.ready = false) : exec i s = .next s := by
  obtain ⟨α, checks, effect, hexec⟩ := exec_shape i s
  rw [hexec, State.runCommand_notReady _ _ _ _ hr]

theorem exec_of_take {i : Instr} {s : State} {us : List Draw} {d : RandomSource} (hr : s.ready = true)
    (h : firstFault i s = none) (htake : s.source.take (tableDraws i s) = some (us, d)) :
    exec i s = .next ((completion i us s).setSource d) := by
  rw [exec_of_no_fault hr h, State.drawing_of_take htake, completion_setSource]

theorem exec_cases {i : Instr} {s t : State} (h : exec i s = .next t) :
    (s.ready = false ∧ t = s) ∨
    (s.ready = true ∧ ∃ f, firstFault i s = some f ∧ t = s.raise f (encode i)) ∨
    (s.ready = true ∧ firstFault i s = none ∧ s.source.canAnswer (tableDraws i s) = false ∧ t = s.awaitDraws) ∨
    (s.ready = true ∧ firstFault i s = none ∧ ∃ us d, s.source.take (tableDraws i s) = some (us, d) ∧
      t = (completion i us s).setSource d) := by
  cases hr : s.ready with
  | false =>
    rw [exec_of_not_ready hr] at h
    cases h
    exact .inl ⟨rfl, rfl⟩
  | true =>
    refine .inr ?_
    cases hf : firstFault i s with
    | some f =>
      rw [exec_of_firstFault hr hf] at h
      cases h
      exact .inl ⟨rfl, f, rfl, rfl⟩
    | none =>
      refine .inr ?_
      rw [exec_of_no_fault hr hf] at h
      cases h
      rcases s.drawing_cases (tableDraws i s) (completion i) with ⟨us, d, htake, hdone⟩ | ⟨hsilent, hwaits⟩
      · exact .inr ⟨rfl, rfl, us, d, htake, hdone.trans (completion_setSource i us s d)⟩
      · exact .inl ⟨rfl, rfl, hsilent, hwaits⟩

end Sys2Proof.Machine
end

section
/-! What a completed command writes and keeps (`10_state.md` R30, R45): the rules about `completion`, and the statements
O56 and O57. -/

namespace Sys2Proof.Machine

/-! ### Properties of every effect -/

theorem State.dividing_induction {P : State → Prop} {s : State} {b : Poly} {use : Divisor → State} (hs : P s)
    (huse : ∀ g, P (use g)) : P (s.dividing b use) := by
  unfold State.dividing
  split
  · exact hs
  · exact huse _

/-- What holds before trials and is kept by each of them holds after them. -/
theorem State.recordTrials_induction {P : State → Prop} {g : Divisor}
    (htrial : ∀ s u us, P s → P (s.recordTrial g u us)) (n : Nat) (us : List Draw) {s : State} (hs : P s) :
    P (s.recordTrials g n us) := by
  induction n generalizing us s with
  | zero => exact hs
  | succ n ih =>
    cases us with
    | nil => exact hs
    | cons u us => exact ih _ (htrial s u _ hs)

theorem State.recordTrials_frame (g : Divisor) (n : Nat) (us : List Draw) (s : State) :
    OutsideTrials s (s.recordTrials g n us) ∧ (s.recordTrials g n us).source = s.source := by
  refine State.recordTrials_induction (P := fun t => OutsideTrials s t ∧ t.source = s.source) ?_ n us ?_
  · intro t u us h
    simpa [OutsideTrials, State.recordTrial] using h
  · simp [OutsideTrials]

/-- The fault record, the random source, the host's actions and the activity are equal. -/
def KeepsRecordAndInputs (s t : State) : Prop := SameFault s t ∧ SameInputs s t

theorem keepsRecordAndInputs_recordTrials (g : Divisor) (n : Nat) (us : List Draw) (s : State) :
    KeepsRecordAndInputs s (s.recordTrials g n us) := by
  obtain ⟨⟨-, -, -, -, herr, hecmd, hhalt, hhost, hact⟩, hsource⟩ := s.recordTrials_frame g n us
  exact ⟨⟨herr, hecmd, hhalt⟩, ⟨hsource, hhost, hact⟩⟩

/-- No effect touches the fault record or the inputs; the draws are taken beside it. -/
theorem completion_keeps (i : Instr) (us : List Draw) (s : State) : KeepsRecordAndInputs s (completion i us s) := by
  have same : KeepsRecordAndInputs s s := ⟨⟨rfl, rfl, rfl⟩, ⟨rfl, rfl, rfl⟩⟩
  cases i with
  | ldi rd imm16 => exact same
  | deg rd rs1 => exact same
  | setg rs1 => exact same
  | setp imm24 => exact same
  | setk imm24 => exact same
  | rate => exact same
  | mod rd rs1 rs2 => exact State.dividing_induction same fun _ => same
  | enc rd rs1 => exact State.dividing_induction same fun _ => same
  | tx rd rs1 w => simp [completion, KeepsRecordAndInputs, SameFault, SameInputs]
  | dec rd rs1 =>
    refine State.dividing_induction same fun g => ?_
    simp [KeepsRecordAndInputs, SameFault, SameInputs]
  | trial => exact State.dividing_induction same fun g => keepsRecordAndInputs_recordTrials g 1 us s
  | run imm24 => exact State.dividing_induction same fun g => keepsRecordAndInputs_recordTrials g imm24.toNat us s

/-! ### The write matrix (R45) -/

/-- The rows of R45: `t` differs from `s` only in registers that the matrix names for the command. -/
def WritesOnlyItsOwn (i : Instr) (s t : State) : Prop :=
  (∀ r, destination i ≠ some r → t.readX r = s.readX r) ∧
    ((∀ rs1, i ≠ .setg rs1) → t.gen = s.gen) ∧
    ((∀ imm24, i ≠ .setp imm24) → t.prob = s.prob) ∧
    ((∀ imm24, i ≠ .setk imm24) → t.kw = s.kw) ∧
    (transmissions i = 0 → t.sent = s.sent ∧ t.status.flip = s.status.flip) ∧
    (decodes i = 0 → t.det = s.det ∧ t.syn = s.syn ∧ t.status.errdet = s.status.errdet)

theorem writesOnlyItsOwn_of_frame (i : Instr) {s t : State} (hregs : SameRegs s t) (hconfig : SameConfig s t)
    (hcounters : SameCounters s t) (hflags : SameFlags s t) : WritesOnlyItsOwn i s t :=
  ⟨fun r _ => hregs r, fun _ => hconfig.1, fun _ => hconfig.2.1, fun _ => hconfig.2.2,
    fun _ => ⟨hcounters.1, hflags.2.1⟩, fun _ => ⟨hcounters.2, hflags.1, hflags.2.2⟩⟩

theorem writesOnlyItsOwn_self (i : Instr) (s : State) : WritesOnlyItsOwn i s s :=
  writesOnlyItsOwn_of_frame i (fun _ => rfl) ⟨rfl, rfl, rfl⟩ ⟨rfl, rfl⟩ ⟨rfl, rfl, rfl⟩

theorem writesOnlyItsOwn_writeX {i : Instr} {rd : RegNum} (hrd : destination i = some rd) (s : State) (v : Poly) :
    WritesOnlyItsOwn i s (s.writeX rd v) := by
  refine ⟨fun r hr => s.readX_writeX_other rd r v ?_, fun _ => rfl, fun _ => rfl, fun _ => rfl, fun _ => ⟨rfl, rfl⟩,
    fun _ => ⟨rfl, rfl, rfl⟩⟩
  rintro rfl
  exact hr hrd

theorem writesOnlyItsOwn_recordTransmission {i : Instr} {s t : State} (h : WritesOnlyItsOwn i s t)
    (hi : transmissions i ≠ 0) (any : Bool) : WritesOnlyItsOwn i s (t.recordTransmission any) := by
  obtain ⟨hregs, hgen, hprob, hkw, -, hdec⟩ := h
  simp only [WritesOnlyItsOwn, State.recordTransmission_readX, State.recordTransmission_gen,
    State.recordTransmission_prob, State.recordTransmission_kw, State.recordTransmission_det,
    State.recordTransmission_syn, State.recordTransmission_status]
  exact ⟨hregs, hgen, hprob, hkw, fun h => absurd h hi, hdec⟩

theorem writesOnlyItsOwn_recordDecode {i : Instr} {s t : State} (h : WritesOnlyItsOwn i s t)
    (hi : decodes i ≠ 0) (detected : Bool) (syn : Poly) : WritesOnlyItsOwn i s (t.recordDecode detected syn) := by
  obtain ⟨hregs, hgen, hprob, hkw, htx, -⟩ := h
  simp only [WritesOnlyItsOwn, State.recordDecode_readX, State.recordDecode_gen,
    State.recordDecode_prob, State.recordDecode_kw, State.recordDecode_sent, State.recordDecode_status]
  exact ⟨hregs, hgen, hprob, hkw, htx, fun h => absurd h hi⟩

theorem writesOnlyItsOwn_recordTrials {i : Instr} {n : Nat} (htx : transmissions i = n) (hdec : decodes i = n)
    (g : Divisor) (us : List Draw) (s : State) : WritesOnlyItsOwn i s (s.recordTrials g n us) := by
  rcases Nat.eq_zero_or_pos n with rfl | hpos
  · exact writesOnlyItsOwn_self i s
  · refine State.recordTrials_induction (fun t u us h => ?_) n us (writesOnlyItsOwn_self i s)
    exact writesOnlyItsOwn_recordDecode (writesOnlyItsOwn_recordTransmission h (by omega) _) (by omega) _ _

theorem completion_writesOnlyItsOwn (i : Instr) (us : List Draw) (s : State) :
    WritesOnlyItsOwn i s (completion i us s) := by
  have same := writesOnlyItsOwn_self i s
  cases i with
  | ldi rd imm16 => exact writesOnlyItsOwn_writeX rfl s _
  | deg rd rs1 => exact writesOnlyItsOwn_writeX rfl s _
  | mod rd rs1 rs2 => exact State.dividing_induction same fun _ => writesOnlyItsOwn_writeX rfl s _
  | setg rs1 =>
    exact ⟨fun _ _ => rfl, fun h => absurd rfl (h rs1), fun _ => rfl, fun _ => rfl, fun _ => ⟨rfl, rfl⟩,
      fun _ => ⟨rfl, rfl, rfl⟩⟩
  | setp imm24 =>
    exact ⟨fun _ _ => rfl, fun _ => rfl, fun h => absurd rfl (h imm24), fun _ => rfl, fun _ => ⟨rfl, rfl⟩,
      fun _ => ⟨rfl, rfl, rfl⟩⟩
  | setk imm24 =>
    exact ⟨fun _ _ => rfl, fun _ => rfl, fun _ => rfl, fun h => absurd rfl (h imm24), fun _ => ⟨rfl, rfl⟩,
      fun _ => ⟨rfl, rfl, rfl⟩⟩
  | enc rd rs1 => exact State.dividing_induction same fun _ => writesOnlyItsOwn_writeX rfl s _
  | tx rd rs1 w => exact writesOnlyItsOwn_recordTransmission (writesOnlyItsOwn_writeX rfl s _) one_ne_zero _
  | dec rd rs1 =>
    exact State.dividing_induction same fun _ =>
      writesOnlyItsOwn_recordDecode (writesOnlyItsOwn_writeX rfl s _) one_ne_zero _ _
  | trial => exact State.dividing_induction same fun g => writesOnlyItsOwn_recordTrials rfl rfl g us s
  | run imm24 => exact State.dividing_induction same fun g => writesOnlyItsOwn_recordTrials rfl rfl g us s
  | rate => exact same

/-- Settles O56: only a failed check changes `ERR`, and `State.raise_frame` says what it keeps; what a completed
command writes is `completion_writesOnlyItsOwn`. -/
theorem writeMatrix : Obligations.WriteMatrix := by
  intro i s t h
  suffices hall : WritesOnlyItsOwn i s t ∧
      (t.err ≠ s.err → SameRegs s t ∧ SameConfig s t ∧ SameCounters s t ∧ SameFlags s t ∧ SameInputs s t) ∧
      t.host = s.host by
    obtain ⟨⟨hregs, hgen, hprob, hkw, htx, hdec⟩, herr, hhost⟩ := hall
    exact ⟨hregs, hgen, hprob, hkw, htx, hdec, herr, hhost⟩
  rcases exec_cases h with ⟨-, rfl⟩ | ⟨-, f, -, rfl⟩ | ⟨-, -, -, rfl⟩ | ⟨-, -, us, d, -, rfl⟩
  · exact ⟨writesOnlyItsOwn_self i t, fun hne => absurd rfl hne, rfl⟩
  · obtain ⟨hregs, hconfig, hcounters, hflags, hinputs⟩ := s.raise_frame f (encode i)
    exact ⟨writesOnlyItsOwn_of_frame i hregs hconfig hcounters hflags,
      fun _ => ⟨hregs, hconfig, hcounters, hflags, hinputs⟩, rfl⟩
  · exact ⟨writesOnlyItsOwn_self i s, fun hne => absurd rfl hne, rfl⟩
  · obtain ⟨⟨herr, -, -⟩, ⟨-, hhost, -⟩⟩ := completion_keeps i us s
    exact ⟨completion_writesOnlyItsOwn i us s, fun hne => absurd herr hne, hhost⟩

end Sys2Proof.Machine
end

section
/-! One step of the machine, said once for every host action (`10_state.md` R39, R46, `60_exceptions.md` R209 to R212,
`70_reset_and_hazards.md` R240 to R252): the statements O8, O9, O12, O14, O16 to O22. -/

namespace Sys2Proof.Machine

/-! ### What a step does, by the host's next action -/

section
variable {s : State} {rest : List HostAction}

theorem step_of_no_action (h : s.host = []) : step s = .next s := by
  simp [step, fetch, h]

theorem step_of_reset (h : s.host = .reset :: rest) : step s = .next (s.resetEngine.setHost rest) := by
  simp [step, fetch, h]

theorem step_of_cut {c : CmdWord} {n : Nat} (h : s.host = .commandCutByReset c n :: rest) :
    step s = .next (((s.setSource (s.source.skip (min n (wordTableDraws c s)))).resetEngine).setHost rest) := by
  simp [step, fetch, h, wordDraws_eq]

theorem step_of_waiting {c : CmdWord} (hwait : s.activity = .waiting) (h : s.host = .command c :: rest) :
    step s = .next s := by
  simp [step, fetch, h, takeWord, hwait]

theorem step_of_decode_ok {c : CmdWord} {i : Instr} (hidle : s.activity = .idle) (h : s.host = .command c :: rest)
    (hdecode : decode c = .ok i) : step s = exec i (s.setHost rest) := by
  simp [step, fetch, h, takeWord, hidle, hdecode]

end

/-- Settles O8: an idle engine hands the decoded command to `exec`. -/
theorem stepRunsThePresentedCommand : Obligations.StepRunsThePresentedCommand :=
  fun _ _ _ _ => step_of_decode_ok

theorem State.takeIllegal_of_not_ready {s : State} (hr : s.ready = false) (c : CmdWord) : s.takeIllegal c = s :=
  if_neg (by simp [hr])

/-- Everything a step can do: nothing, take a word that is ignored, a fault of an illegal word, a command, a reset. -/
theorem step_cases {s t : State} (h : step s = .next t) :
    (t = s ∧ (s.host = [] ∨ s.activity = .waiting)) ∨
    (∃ rest d, t = ((s.setSource d).resetEngine).setHost rest ∧ s.nextIsNoReset = false) ∨
    (∃ c rest i, s.host = .command c :: rest ∧ decode c = .ok i ∧ exec i (s.setHost rest) = .next t) ∨
    (∃ c rest e, s.host = .command c :: rest ∧ decode c = .error e ∧ t = (s.setHost rest).takeIllegal c) := by
  cases hhost : s.host with
  | nil =>
    rw [step_of_no_action hhost] at h
    cases h
    exact .inl ⟨rfl, .inl rfl⟩
  | cons action rest =>
    cases action with
    | reset =>
      rw [step_of_reset hhost] at h
      cases h
      exact .inr (.inl ⟨rest, s.source, rfl, by simp [State.nextIsNoReset, hhost]⟩)
    | commandCutByReset c n =>
      rw [step_of_cut hhost] at h
      cases h
      exact .inr (.inl ⟨rest, _, rfl, by simp [State.nextIsNoReset, hhost]⟩)
    | command c =>
      cases hact : s.activity with
      | waiting =>
        rw [step_of_waiting hact hhost] at h
        cases h
        exact .inl ⟨rfl, .inr rfl⟩
      | idle =>
        cases hdecode : decode c with
        | ok i =>
          rw [step_of_decode_ok hact hhost hdecode] at h
          exact .inr (.inr (.inl ⟨c, rest, i, rfl, hdecode, h⟩))
        | error e =>
          rw [step_of_decode_error hact hhost hdecode] at h
          cases h
          exact .inr (.inr (.inr ⟨c, rest, e, rfl, hdecode, rfl⟩))

/-- Settles O21: every command answers a next state, and what is settled without one is a next state. -/
theorem everyStepAnswersANextState : Obligations.EveryStepAnswersANextState := by
  intro s
  unfold step
  cases fetch s with
  | settled t => exact ⟨t, rfl⟩
  | command i t =>
    obtain ⟨α, checks, effect, hexec⟩ := exec_shape i t
    obtain ⟨t', ht'⟩ := State.runCommand_next t i checks effect
    exact ⟨t', hexec.trans ht'⟩

/-! ### Reset (R240, R244, R245) -/

theorem reset_frame (s : State) (d : RandomSource) (rest : List HostAction) :
    SameRegs State.reset (((s.setSource d).resetEngine).setHost rest) ∧
      SameConfig State.reset (((s.setSource d).resetEngine).setHost rest) ∧
      SameCounters State.reset (((s.setSource d).resetEngine).setHost rest) ∧
      SameFlags State.reset (((s.setSource d).resetEngine).setHost rest) ∧
      SameFault State.reset (((s.setSource d).resetEngine).setHost rest) :=
  ⟨fun _ => rfl, ⟨rfl, rfl, rfl⟩, ⟨rfl, rfl⟩, ⟨rfl, rfl, rfl⟩, ⟨rfl, rfl, rfl⟩⟩

/-- Settles O16: the step is `State.resetEngine`, which keeps the source, with the action taken. -/
theorem resetFromEveryState : Obligations.ResetFromEveryState := by
  intro s rest hhost
  obtain ⟨hregs, hconfig, hcounters, hflags, hfault⟩ := reset_frame s s.source rest
  exact ⟨_, step_of_reset hhost, hregs, hconfig, hcounters, hflags, hfault, rfl, rfl, rfl, rfl, rfl⟩

/-- Settles O17: the draws are those that `RandomSource.skip_spec` gives for the table's number. -/
theorem resetDuringCommand : Obligations.ResetDuringCommand := by
  intro s c n rest hhost
  obtain ⟨k, hk, hskip⟩ := RandomSource.skip_spec (min n (wordTableDraws c s)) s.source
  obtain ⟨hregs, hconfig, hcounters, hflags, hfault⟩ :=
    reset_frame s (s.source.skip (min n (wordTableDraws c s))) rest
  exact ⟨_, k, step_of_cut hhost, hregs, hconfig, hcounters, hflags, hfault, rfl, rfl, hk, hskip⟩

/-! ### Priority and precision of faults (R209, R210, R212) -/

theorem step_of_halted {s : State} {c : CmdWord} {rest : List HostAction} (hidle : s.activity = .idle)
    (hhalted : s.err ≠ 0) (hhost : s.host = .command c :: rest) : step s = .next (s.setHost rest) := by
  have hr : (s.setHost rest).ready = false := (State.not_ready_iff _).2 (.inr hhalted)
  cases hdecode : decode c with
  | ok i => rw [step_of_decode_ok hidle hhost hdecode, exec_of_not_ready hr]
  | error e => rw [step_of_decode_error hidle hhost hdecode, State.takeIllegal_of_not_ready hr]

@[simp] theorem firstFault_setHost (i : Instr) (s : State) (rest : List HostAction) :
    firstFault i (s.setHost rest) = firstFault i s := by
  cases i <;> rfl

/-- Settles O9: a halted engine ignores what it takes; a ready one raises the first fault, or completes and keeps the
record. -/
theorem faultPriority : Obligations.FaultPriority := by
  intro s c rest hidle hhost
  have hready : s.err = 0 → (s.setHost rest).ready = true := fun herr => (State.ready_iff _).2 ⟨hidle, herr⟩
  refine ⟨fun hhalted => step_of_halted hidle hhalted hhost, fun herr e hdecode => ?_, fun herr i f hdecode hf => ?_,
    fun herr i hdecode hf => ?_⟩
  · rw [step_of_decode_error hidle hhost hdecode, State.takeIllegal_of_ready (hready herr)]
  · have hf' := (firstFault_setHost i s rest).trans hf
    rw [step_of_decode_ok hidle hhost hdecode, exec_of_firstFault (hready herr) hf', Laws.encode_of_decode hdecode]
  · have hf' := (firstFault_setHost i s rest).trans hf
    rw [step_of_decode_ok hidle hhost hdecode, exec_of_no_fault (hready herr) hf']
    exact ⟨_, rfl, State.drawing_sameFault (s := s.setHost rest) fun us d =>
      (completion_keeps i us ((s.setHost rest).setSource d)).1⟩

theorem firstFault_ne_illegalCommand (i : Instr) (s : State) : firstFault i s ≠ some .illegalCommand := by
  cases i <;> grind [firstFault]

theorem faultsWith_of_firstFault {i : Instr} {s : State} {f : Cause} (hr : s.ready = true)
    (hf : firstFault i s = some f) : FaultsWith i s f := by
  obtain ⟨hregs, hconfig, hcounters, hflags, hinputs⟩ := s.raise_frame f (encode i)
  exact ⟨_, exec_of_firstFault hr hf, rfl, rfl, rfl, hregs, hconfig, hcounters, hflags, hinputs⟩

/-- Settles O12: of what `exec_cases` lists, only a failed check records a fault. -/
theorem faultsArePrecise : Obligations.FaultsArePrecise := by
  intro i s t hr h herr
  have hzero : s.err = 0 := ((State.ready_iff s).1 hr).2
  rcases exec_cases h with ⟨-, rfl⟩ | ⟨-, f, hf, rfl⟩ | ⟨-, -, -, rfl⟩ | ⟨-, -, us, d, -, rfl⟩
  · exact absurd hzero herr
  · have hprecise := faultsWith_of_firstFault hr hf
    cases f with
    | configurationError => exact .inl hprecise
    | divisionByZero => exact .inr (.inl hprecise)
    | invalidProbability => exact .inr (.inr (.inl hprecise))
    | operandRange => exact .inr (.inr (.inr (.inl hprecise)))
    | counterOverflow => exact .inr (.inr (.inr (.inr hprecise)))
    | illegalCommand => exact absurd hf (firstFault_ne_illegalCommand i s)
  · exact absurd hzero herr
  · exact absurd ((completion_keeps i us s).1.1.trans hzero) herr

/-! ### The halted engine (R210) -/

theorem step_of_halted_no_reset {s t : State} (hhalted : s.err ≠ 0) (hno : s.nextIsNoReset = true)
    (h : step s = .next t) : ∃ rest, t = s.setHost rest := by
  have hr : ∀ rest, (s.setHost rest).ready = false := fun rest => (State.not_ready_iff _).2 (.inr hhalted)
  rcases step_cases h with ⟨rfl, -⟩ | ⟨rest, d, -, hreset⟩ | ⟨c, rest, i, -, -, hexec⟩ | ⟨c, rest, e, -, -, rfl⟩
  · exact ⟨t.host, rfl⟩
  · simp [hreset] at hno
  · rw [exec_of_not_ready (hr rest)] at hexec
    cases hexec
    exact ⟨rest, rfl⟩
  · exact ⟨rest, State.takeIllegal_of_not_ready (hr rest) c⟩

/-- Settles O14: a halted engine's steps change nothing but the host's list. -/
theorem haltedUntilReset : Obligations.HaltedUntilReset := by
  refine ⟨fun s c rest hhalted hidle hhost => step_of_halted hidle hhalted hhost,
    fun s sel _ hidle => State.readPort_of_idle hidle sel, fun s t hhalted hno h => ?_⟩
  obtain ⟨rest, rfl⟩ := step_of_halted_no_reset hhalted hno h
  exact ⟨fun _ => rfl, ⟨rfl, rfl, rfl⟩, ⟨rfl, rfl⟩, ⟨rfl, rfl, rfl⟩, ⟨rfl, rfl, rfl⟩, rfl⟩

/-! ### The stuck state (R252) -/

theorem step_of_waiting_no_reset {s : State} (hwait : s.activity = .waiting) (hno : s.nextIsNoReset = true) :
    step s = .next s := by
  cases hhost : s.host with
  | nil => exact step_of_no_action hhost
  | cons action rest =>
    cases action with
    | command c => exact step_of_waiting hwait hhost
    | reset => simp [State.nextIsNoReset, hhost] at hno
    | commandCutByReset c n => simp [State.nextIsNoReset, hhost] at hno

theorem RandomSource.take_eq_none_iff (n : Nat) (d : RandomSource) : d.take n = none ↔ d.canAnswer n = false := by
  rw [← RandomSource.take_isSome, ← Option.isNone_iff_eq_none, Option.isSome_eq_false_iff]

theorem State.drawing_of_silent {s : State} {n : Nat} (h : s.source.canAnswer n = false)
    (use : List Draw → State → State) : s.drawing n use = s.awaitDraws := by
  rw [State.drawing, (RandomSource.take_eq_none_iff n s.source).2 h]

/-- Settles O22: a command without a fault waits when its draws are not all answered; nothing but a reset ends that. -/
theorem silentSourceIsStuckUntilReset : Obligations.SilentSourceIsStuckUntilReset := by
  refine ⟨fun i s hr hhalt hf hsilent => ?_, fun s => step_of_waiting_no_reset, fun s sel hwait => ?_⟩
  · have hexec : exec i s = .next s.awaitDraws := by
      rw [exec_of_no_fault hr hf, State.drawing_of_silent hsilent]
    exact ⟨_, hexec, rfl, rfl, hhalt, ((State.ready_iff s).1 hr).2⟩
  · simp [State.readPort, hwait]

end Sys2Proof.Machine
end

section
/-! The invariants of reachable states (`10_state.md` R46, `70_reset_and_hazards.md` R252): the statements O18, O19 and
O20. -/

namespace Sys2Proof.Machine

theorem State.reset_inv : State.reset.Inv := by decide

/-- Settles O18: the rules compute on the reset state, which is idle. -/
theorem resetMeetsTheRegisterRules : Obligations.ResetMeetsTheRegisterRules :=
  ⟨State.reset_inv, fun hwait => nomatch hwait⟩

/-! ### The rules of R46 -/

theorem State.Inv.raise {s : State} (h : s.Inv) (f : Cause) (c : CmdWord) : (s.raise f c).Inv := by
  obtain ⟨hprob, hkw, -, -, -⟩ := h
  exact ⟨hprob, hkw, by simp, f.code_le_six, fun hzero => absurd hzero f.code_ne_zero⟩

/-- The checks of SETP and SETK let only legal values through, and nothing else writes `PROB` or `KW`. -/
theorem State.Inv.completion {s : State} (h : s.Inv) {i : Instr} (hf : firstFault i s = none) (us : List Draw) :
    (completion i us s).Inv := by
  obtain ⟨hprob, hkw, hhalt, hcode, hecmd⟩ := h
  obtain ⟨⟨err_eq, ecmd_eq, halt_eq⟩, -⟩ := completion_keeps i us s
  obtain ⟨-, -, prob_eq, kw_eq, -⟩ := completion_writesOnlyItsOwn i us s
  have hprob' : (Machine.completion i us s).prob.toNat ≤ 65536 := by
    by_cases hi : ∃ imm24, i = .setp imm24
    · obtain ⟨imm24, rfl⟩ := hi
      have hle : imm24.toNat ≤ 65536 := not_lt.1 (not_of_ite_eq_none hf)
      rw [Machine.completion, State.setProb_prob, toNat_low_bits_of_lt (by omega)]
      exact hle
    · rw [prob_eq fun imm24 h => hi ⟨imm24, h⟩]
      exact hprob
  have hkw' : (Machine.completion i us s).kw.toNat ≤ 16 := by
    by_cases hi : ∃ imm24, i = .setk imm24
    · obtain ⟨imm24, rfl⟩ := hi
      have hle : imm24.toNat ≤ 16 := not_lt.1 (not_of_ite_eq_none hf)
      rw [Machine.completion, State.setKw_kw, toNat_low_bits_of_lt (by omega)]
      exact hle
    · rw [kw_eq fun imm24 h => hi ⟨imm24, h⟩]
      exact hkw
  refine ⟨hprob', hkw', ?_, ?_, ?_⟩
  · rw [err_eq, halt_eq]
    exact hhalt
  · rw [err_eq]
    exact hcode
  · rw [err_eq, ecmd_eq]
    exact hecmd

theorem State.Inv.exec {s t : State} (h : s.Inv) {i : Instr} (hexec : exec i s = .next t) : t.Inv := by
  rcases exec_cases hexec with ⟨-, rfl⟩ | ⟨-, f, -, rfl⟩ | ⟨-, -, -, rfl⟩ | ⟨-, hf, us, d, -, rfl⟩
  · exact h
  · exact h.raise f _
  · exact h
  · exact h.completion hf us

/-- Settles O19: the reset values meet the rules, and a fault entry and every completed command keep them. -/
theorem stepKeepsTheRegisterRules : Obligations.StepKeepsTheRegisterRules := by
  intro s t hinv h
  rcases step_cases h with ⟨rfl, -⟩ | ⟨rest, d, rfl, -⟩ | ⟨c, rest, i, -, -, hexec⟩ | ⟨c, rest, e, -, -, rfl⟩
  · exact hinv
  · exact State.reset_inv
  · exact State.Inv.exec (s := s.setHost rest) hinv hexec
  · have hkept : (s.setHost rest).Inv := hinv
    unfold State.takeIllegal
    split
    · exact hkept.raise _ _
    · exact hkept

/-! ### The waiting rule -/

theorem State.waitInv_of_idle {s : State} (h : s.activity = .idle) : s.WaitInv := fun hwait => by
  rw [h] at hwait
  cases hwait

theorem RandomSource.silent_of_cannot_answer {d : RandomSource} {n : Nat} (h : d.canAnswer n = false) :
    d.silent = true := by
  simp only [RandomSource.canAnswer, Bool.or_eq_false_iff, Bool.not_eq_false'] at h
  exact h.1

theorem State.WaitInv.exec {s t : State} (h : s.WaitInv) {i : Instr} (hexec : exec i s = .next t) : t.WaitInv := by
  rcases exec_cases hexec with ⟨-, rfl⟩ | ⟨hr, f, -, rfl⟩ | ⟨hr, -, hsilent, rfl⟩ | ⟨hr, -, us, d, -, rfl⟩
  · exact h
  · exact State.waitInv_of_idle ((State.ready_iff s).1 hr).1
  · exact fun _ => ⟨((State.ready_iff s).1 hr).2, rfl, RandomSource.silent_of_cannot_answer (d := s.source) hsilent⟩
  · obtain ⟨-, -, -, hact⟩ := completion_keeps i us s
    exact State.waitInv_of_idle (hact.trans ((State.ready_iff s).1 hr).1)

/-- Settles O20: a ready engine that comes to wait does so because its source is silent, and nothing else does. -/
theorem stepKeepsTheWaitingRule : Obligations.StepKeepsTheWaitingRule := by
  intro s t hinv h
  rcases step_cases h with ⟨rfl, -⟩ | ⟨rest, d, rfl, -⟩ | ⟨c, rest, i, -, -, hexec⟩ | ⟨c, rest, e, -, -, rfl⟩
  · exact hinv
  · exact State.waitInv_of_idle rfl
  · exact State.WaitInv.exec (s := s.setHost rest) hinv hexec
  · unfold State.takeIllegal
    split
    case isTrue hr => exact State.waitInv_of_idle ((State.ready_iff _).1 hr).1
    case isFalse => exact hinv

end Sys2Proof.Machine
end

section
/-! What trials and single commands count (`10_state.md` R30, `45_statistics.md` R187 facts 2 and 3): the statements
O52, O53 and O57. -/

namespace Sys2Proof.Machine

/-! ### One trial -/

/-- A codeword that no draw changes is decoded without an error: what a trial detects, it sent. -/
theorem flipped_of_errorDetected {g : Divisor} {threshold : Threshold} {us : List Draw} {m : Poly}
    (h : errorDetected g (transmit threshold us (codeword g m)).1 = true) :
    (transmit threshold us (codeword g m)).2 = true := by
  rw [transmit_eq] at h ⊢
  by_contra hnone
  simp [errorPattern_of_no_flip (Bool.eq_false_iff.2 hnone)] at h

/-- A counter with room counts one event or none. -/
theorem toNat_counted {c : Counter} (hroom : c.toNat < 4294967295) (b : Bool) :
    (if b = true then c + 1 else c).toNat = c.toNat + b.toNat := by
  cases b with
  | false => rfl
  | true => exact BitVec.toNat_add_of_lt (y := 1) (show c.toNat + 1 < 4294967296 by omega)

/-- From `s` to `t` the counters grow by at most `n`, and `DET` by no more than `SENT`. -/
def CountsTrials (n : Nat) (s t : State) : Prop :=
  s.sent.toNat ≤ t.sent.toNat ∧ t.sent.toNat ≤ s.sent.toNat + n ∧ s.det.toNat ≤ t.det.toNat ∧
    t.det.toNat ≤ s.det.toNat + n ∧ t.det.toNat + s.sent.toNat ≤ s.det.toNat + t.sent.toNat

theorem countsTrials_self (n : Nat) (s : State) : CountsTrials n s s := by
  unfold CountsTrials
  omega

theorem State.recordTrial_countsTrials {s : State} (hsent : s.sent.toNat < 4294967295)
    (hdet : s.det.toNat < 4294967295) (g : Divisor) (u : Draw) (us : List Draw) :
    CountsTrials 1 s (s.recordTrial g u us) := by
  have hflipped := flipped_of_errorDetected (g := g) (threshold := s.prob) (us := us) (m := infoword u s.kw.toNat)
  simp only [CountsTrials, State.recordTrial, State.recordDecode_sent, State.recordDecode_det,
    State.recordTransmission_sent, State.recordTransmission_det, toNat_counted hsent, toNat_counted hdet]
  have hle := Bool.toNat_le (transmit s.prob us (codeword g (infoword u s.kw.toNat))).2
  cases hd : errorDetected g (transmit s.prob us (codeword g (infoword u s.kw.toNat))).1 with
  | false =>
    rw [Bool.toNat_false]
    omega
  | true =>
    rw [hflipped hd, Bool.toNat_true]
    omega

theorem State.recordTrials_countsTrials (g : Divisor) (n : Nat) (us : List Draw) {s : State}
    (hsent : s.sent.toNat + n ≤ 4294967295) (hdet : s.det.toNat + n ≤ 4294967295) :
    CountsTrials n s (s.recordTrials g n us) := by
  induction n generalizing us s with
  | zero => exact countsTrials_self 0 s
  | succ n ih =>
    cases us with
    | nil => exact countsTrials_self (n + 1) s
    | cons u us =>
      have hfirst := s.recordTrial_countsTrials (by omega) (by omega) g u (us.take (trialWidth g s))
      unfold CountsTrials at hfirst ih ⊢
      have hrest := ih (us.drop (trialWidth g s)) (s := s.recordTrial g u (us.take (trialWidth g s))) (by omega)
        (by omega)
      rw [State.recordTrials]
      omega

/-! ### Every command -/

theorem completion_run_countsTrials {imm24 : BitVec 24} {s : State} (hf : firstFault (.run imm24) s = none)
    (us : List Draw) : CountsTrials imm24.toNat s (completion (.run imm24) us s) := by
  obtain ⟨-, -, -, hsent, hdet⟩ := (firstFault_run_eq_none_iff imm24 s).1 hf
  exact State.dividing_induction (countsTrials_self _ s) fun g => State.recordTrials_countsTrials g _ us hsent hdet

theorem completion_trial_countsTrials {s : State} (hf : firstFault .trial s = none) (us : List Draw) :
    CountsTrials 1 s (completion .trial us s) :=
  completion_run_countsTrials (imm24 := 1) (firstFault_trial s ▸ hf) us

/-- From `s` to `t` the counters grow, by at most what R30 gives the command. -/
def CountsEvents (i : Instr) (s t : State) : Prop :=
  s.sent.toNat ≤ t.sent.toNat ∧ t.sent.toNat ≤ s.sent.toNat + transmissions i ∧
    s.det.toNat ≤ t.det.toNat ∧ t.det.toNat ≤ s.det.toNat + decodes i

theorem countsEvents_of_sameCounters (i : Instr) {s t : State} (h : SameCounters s t) : CountsEvents i s t := by
  obtain ⟨hsent, hdet⟩ := h
  unfold CountsEvents
  rw [hsent, hdet]
  omega

theorem CountsTrials.countsEvents {i : Instr} {n : Nat} {s t : State} (h : CountsTrials n s t)
    (htx : transmissions i = n) (hdec : decodes i = n) : CountsEvents i s t := by
  obtain ⟨h1, h2, h3, h4, -⟩ := h
  rw [CountsEvents, htx, hdec]
  exact ⟨h1, h2, h3, h4⟩

/-- A command that neither transmits nor decodes leaves both counters. -/
theorem completion_sameCounters {i : Instr} (htx : transmissions i = 0) (hdec : decodes i = 0) (us : List Draw)
    (s : State) : SameCounters s (completion i us s) := by
  obtain ⟨-, -, -, -, sent_eq, det_eq⟩ := completion_writesOnlyItsOwn i us s
  exact ⟨(sent_eq htx).1, (det_eq hdec).1⟩

theorem completion_countsEvents {i : Instr} {s : State} (hf : firstFault i s = none) (us : List Draw) :
    CountsEvents i s (completion i us s) := by
  cases i with
  | tx rd rs1 w =>
    obtain ⟨-, -, hroom⟩ := (txChecks_eq_ok s rs1 w ()).1 (txChecks_of_no_fault hf)
    have hle := Bool.toNat_le (transmit s.prob us (s.readX rs1)).2
    simp only [CountsEvents, completion, State.recordTransmission_sent, State.recordTransmission_det,
      State.writeX_sent, State.writeX_det, toNat_counted hroom, transmissions, decodes]
    omega
  | dec rd rs1 =>
    obtain ⟨g, hg, hchecks⟩ := decChecks_of_no_fault hf
    obtain ⟨-, hroom⟩ := (decChecks_eq_ok s g).1 hchecks
    have hle := Bool.toNat_le (errorDetected g (s.readX rs1))
    simp only [CountsEvents, completion_dec us hg, State.recordDecode_sent, State.recordDecode_det,
      State.writeX_sent, State.writeX_det, toNat_counted hroom, transmissions, decodes]
    omega
  | trial => exact (completion_trial_countsTrials hf us).countsEvents rfl rfl
  | run imm24 => exact (completion_run_countsTrials hf us).countsEvents rfl rfl
  | _ => exact countsEvents_of_sameCounters _ (completion_sameCounters rfl rfl us s)

/-- Settles O57: the checks make room in the counters for what a completed command counts, and nothing else counts. -/
theorem countersOnlyGrow : Obligations.CountersOnlyGrow := by
  intro i s t h
  rcases exec_cases h with ⟨-, rfl⟩ | ⟨-, f, -, rfl⟩ | ⟨-, -, -, rfl⟩ | ⟨-, hf, us, d, -, rfl⟩
  · exact countsEvents_of_sameCounters i ⟨rfl, rfl⟩
  · exact countsEvents_of_sameCounters i ⟨rfl, rfl⟩
  · exact countsEvents_of_sameCounters i ⟨rfl, rfl⟩
  · exact completion_countsEvents hf us

/-! ### `DET` at most `SENT` -/

theorem CountsTrials.det_le_sent {n : Nat} {s t : State} (h : CountsTrials n s t)
    (hle : s.det.toNat ≤ s.sent.toNat) : t.det.toNat ≤ t.sent.toNat := by
  unfold CountsTrials at h
  omega

theorem completion_det_le_sent {i : Instr} (hi : transmissions i = decodes i) {s : State}
    (hf : firstFault i s = none) (hle : s.det.toNat ≤ s.sent.toNat) (us : List Draw) :
    (completion i us s).det.toNat ≤ (completion i us s).sent.toNat := by
  by_cases hzero : transmissions i = 0
  · obtain ⟨hsent, hdet⟩ := completion_sameCounters hzero (hi ▸ hzero) us s
    rw [hsent, hdet]
    exact hle
  · cases i with
    | trial => exact (completion_trial_countsTrials hf us).det_le_sent hle
    | run imm24 => exact (completion_run_countsTrials hf us).det_le_sent hle
    | tx rd rs1 w => cases hi
    | _ => exact absurd rfl hzero

theorem exec_det_le_sent {i : Instr} (hi : transmissions i = decodes i) {s t : State}
    (hle : s.det.toNat ≤ s.sent.toNat) (h : exec i s = .next t) : t.det.toNat ≤ t.sent.toNat := by
  rcases exec_cases h with ⟨-, rfl⟩ | ⟨-, f, -, rfl⟩ | ⟨-, -, -, rfl⟩ | ⟨-, hf, us, d, -, rfl⟩
  · exact hle
  · exact hle
  · exact hle
  · exact completion_det_le_sent hi hf hle us

/-- Settles O52: of the commands that transmit as often as they decode only trials count, and what a trial detects it
also sent; a reset clears both counters. -/
theorem trialsKeepDetAtMostSent : Obligations.TrialsKeepDetAtMostSent := by
  intro s t imm24 hle
  refine ⟨exec_det_le_sent rfl hle, exec_det_le_sent rfl hle, fun hbalanced h => ?_⟩
  rcases step_cases h with ⟨rfl, -⟩ | ⟨rest, d, rfl, -⟩ | ⟨c, rest, i, hhost, hdecode, hexec⟩ | ⟨c, rest, e, -, -, rfl⟩
  · exact hle
  · exact le_rfl
  · exact exec_det_le_sent (s := s.setHost rest) (hbalanced c rest i hhost hdecode) hle hexec
  · unfold State.takeIllegal
    split <;> exact hle

/-! ### Probability 1 -/

theorem State.recordTrial_noiseless {s : State} (hprob : s.prob = 0x10000) (g : Divisor) (u : Draw) (us : List Draw) :
    SameCounters s (s.recordTrial g u us) := by
  have hnone : us.any (flips · s.prob) = false := List.any_eq_false.2 fun u _ => by simp [hprob]
  simp [SameCounters, State.recordTrial, transmit_eq, hnone, errorPattern_of_no_flip hnone]

/-- Settles O53: no draw flips at probability 1, so no trial sends or detects an error. -/
theorem noiselessRunsCountNothing : Obligations.NoiselessRunsCountNothing := by
  intro s t imm24 hprob h
  rcases exec_cases h with ⟨-, rfl⟩ | ⟨-, f, -, rfl⟩ | ⟨-, -, -, rfl⟩ | ⟨-, -, us, d, -, rfl⟩
  · exact ⟨rfl, rfl⟩
  · exact ⟨rfl, rfl⟩
  · exact ⟨rfl, rfl⟩
  · refine State.dividing_induction (P := SameCounters s) ⟨rfl, rfl⟩ fun g => ?_
    refine (State.recordTrials_induction (P := fun t => t.prob = 0x10000 ∧ SameCounters s t) ?_ _ us
      ⟨hprob, rfl, rfl⟩).2
    rintro t u us ⟨hprob, hsent, hdet⟩
    obtain ⟨⟨-, -, prob_eq, -⟩, -⟩ := t.recordTrial_frame g u us
    obtain ⟨sent_eq, det_eq⟩ := State.recordTrial_noiseless hprob g u us
    exact ⟨prob_eq.trans hprob, sent_eq.trans hsent, det_eq.trans hdet⟩

end Sys2Proof.Machine
end

section
/-! Draws and flags (`20_memory.md` R72, `43_channel.md` R164 fact 5, `10_state.md` R32 and R33, `44_decoder.md` R175):
the statements O42, O43, O44 and O58. -/

namespace Sys2Proof.Machine

/-! ### Recorded draws (R72) -/

theorem RandomSource.take_append (us rest : List Draw) (n : Nat) (silent : Bool) :
    RandomSource.take us.length ⟨us ++ rest, n, silent⟩ = some (us, ⟨rest, n + us.length, silent⟩) := by
  induction us generalizing n with
  | nil => rfl
  | cons u us ih =>
    have hdraw : RandomSource.draw ⟨u :: us ++ rest, n, silent⟩ = some (u, ⟨us ++ rest, n + 1, silent⟩) := rfl
    rw [List.length_cons, RandomSource.take_succ, hdraw, Option.bind_some, ih, Option.map_some, Nat.add_assoc,
      Nat.add_comm 1]

/-- Settles O42: by `RandomSource.take_append`, an induction on the recorded draws. -/
theorem drawsComeInOrder : Obligations.DrawsComeInOrder := RandomSource.take_append

/-- Settles O43: a source that answers leaves what `RandomSource.take_spec` says, and nothing else in a completed
command touches it. -/
theorem drawsPerCommand : Obligations.DrawsPerCommand := by
  refine ⟨fun i s hr hf hanswers => ?_, fun i s t hnone h => ?_⟩
  · rw [← RandomSource.take_isSome] at hanswers
    obtain ⟨⟨us, d⟩, htake⟩ := Option.isSome_iff_exists.1 hanswers
    obtain ⟨-, hused, hsilent, hleft, -⟩ := RandomSource.take_spec _ htake
    obtain ⟨hfault, -, hhost, hact⟩ := completion_keeps i us s
    exact ⟨_, exec_of_take hr hf htake, hact.trans ((State.ready_iff s).1 hr).1, hfault, hhost, hused, hsilent, hleft⟩
  · rcases exec_cases h with ⟨-, rfl⟩ | ⟨-, f, -, rfl⟩ | ⟨hr, hf, -⟩ | ⟨hr, hf, -⟩
    · rfl
    · rfl
    · simp [hr, hf] at hnone
    · simp [hr, hf] at hnone

/-! ### Later draws -/

@[simp] theorem firstFault_setSource (i : Instr) (s : State) (d : RandomSource) :
    firstFault i (s.setSource d) = firstFault i s := by
  cases i <;> rfl

@[simp] theorem tableDraws_setSource (i : Instr) (s : State) (d : RandomSource) :
    tableDraws i (s.setSource d) = tableDraws i s := by
  cases i <;> rfl

theorem RandomSource.take_of_recorded (d : RandomSource) {n : Nat} (h : n ≤ d.answers.length) (more : List Draw) :
    RandomSource.take n { d with answers := d.answers ++ more } =
      some (d.answers.take n, ⟨d.answers.drop n ++ more, d.used + n, d.silent⟩) := by
  have hrecorded := RandomSource.take_append (d.answers.take n) (d.answers.drop n ++ more) d.used d.silent
  rwa [List.length_take_of_le h, ← List.append_assoc, List.take_append_drop] at hrecorded

/-- Settles O44: the command is handed the same draws, and completes as a function of those. -/
theorem laterDrawsHaveNoPart : Obligations.LaterDrawsHaveNoPart := by
  intro i s t more hr hf hrecorded h
  have htake := s.source.take_of_recorded hrecorded []
  have htake_more := s.source.take_of_recorded hrecorded more
  rw [List.append_nil, List.append_nil] at htake
  rw [exec_of_take hr hf htake] at h
  cases h
  have hexec := exec_of_take (i := i) (s := s.setSource { s.source with answers := s.source.answers ++ more }) hr
    (by rw [firstFault_setSource, hf]) (by rw [tableDraws_setSource]; exact htake_more)
  rw [hexec, completion_setSource]
  rfl

/-! ### The flags and the syndrome register flow nowhere -/

/-- `s` with other values in `SYN`, `FLIP` and `ERRDET`. -/
def State.withFlags (s : State) (syn : Poly) (flip errdet : Bool) : State :=
  ((s.setSyn syn).setFlip flip).setErrdet errdet

theorem sameButFlags_withFlags (s : State) (syn : Poly) (flip errdet : Bool) :
    SameButFlags s (s.withFlags syn flip errdet) :=
  ⟨fun _ => rfl, ⟨rfl, rfl, rfl⟩, ⟨rfl, rfl⟩, ⟨rfl, rfl, rfl⟩, ⟨rfl, rfl, rfl⟩⟩

theorem eq_withFlags_of_sameButFlags {s s' : State} (h : SameButFlags s s') :
    s' = s.withFlags s'.syn s'.status.flip s'.status.errdet := by
  obtain ⟨hregs, ⟨hgen, hprob, hkw⟩, ⟨hsent, hdet⟩, ⟨herr, hecmd, hhalt⟩, ⟨hsource, hhost, hact⟩⟩ := h
  have hx : s'.x = s.x := Vector.ext fun j hj => by
    simpa [State.readX, Nat.mod_eq_of_lt hj] using hregs (BitVec.ofNat 3 j)
  obtain ⟨x, gen, prob, kw, sent, det, syn, ⟨flip, errdet, halt⟩, err, ecmd, activity, source, host⟩ := s'
  simp_all [State.withFlags, State.setSyn, State.setFlip, State.setErrdet]

section
variable (s : State) (syn : Poly) (flip errdet : Bool)

@[simp] theorem firstFault_withFlags (i : Instr) : firstFault i (s.withFlags syn flip errdet) = firstFault i s := by
  cases i <;> rfl

@[simp] theorem tableDraws_withFlags (i : Instr) : tableDraws i (s.withFlags syn flip errdet) = tableDraws i s := by
  cases i <;> rfl

theorem State.recordTransmission_withFlags (any : Bool) :
    (s.withFlags syn flip errdet).recordTransmission any = (s.recordTransmission any).withFlags syn any errdet := by
  cases any <;> rfl

theorem State.recordDecode_withFlags (detected : Bool) (syn' : Poly) :
    (s.withFlags syn flip errdet).recordDecode detected syn' =
      (s.recordDecode detected syn').withFlags syn' flip detected := by
  cases detected <;> rfl

theorem State.record_withFlags (any detected : Bool) (syn' : Poly) :
    ((s.withFlags syn flip errdet).recordTransmission any).recordDecode detected syn' =
      (s.recordTransmission any).recordDecode detected syn' := by
  cases any <;> cases detected <;> rfl

/-- A trial overwrites all three. -/
theorem State.recordTrial_withFlags (g : Divisor) (u : Draw) (us : List Draw) :
    (s.withFlags syn flip errdet).recordTrial g u us = s.recordTrial g u us :=
  s.record_withFlags syn flip errdet _ _ _

theorem State.recordTrials_withFlags (g : Divisor) {n : Nat} (hn : n ≠ 0) {us : List Draw} (hus : us ≠ []) :
    (s.withFlags syn flip errdet).recordTrials g n us = s.recordTrials g n us := by
  obtain ⟨n, rfl⟩ := Nat.exists_eq_succ_of_ne_zero hn
  obtain ⟨u, us, rfl⟩ := List.exists_cons_of_ne_nil hus
  simp only [State.recordTrials, State.recordTrial_withFlags]
  rfl

end

/-- Of `SYN`, `FLIP` and `ERRDET`, those that the command writes are equal, and nothing else differs. -/
def PassesFlags (i : Instr) (t t' : State) : Prop :=
  ∃ syn flip errdet, t' = t.withFlags syn flip errdet ∧ (0 < transmissions i → flip = t.status.flip) ∧
    (0 < decodes i → syn = t.syn ∧ errdet = t.status.errdet)

theorem passesFlags_of_eq (i : Instr) {t t' : State} (h : t' = t) : PassesFlags i t t' :=
  ⟨t.syn, t.status.flip, t.status.errdet, h, fun _ => rfl, fun _ => ⟨rfl, rfl⟩⟩

theorem passesFlags_of_silent {i : Instr} (htx : transmissions i = 0) (hdec : decodes i = 0) {t t' : State}
    {syn : Poly} {flip errdet : Bool} (h : t' = t.withFlags syn flip errdet) : PassesFlags i t t' :=
  ⟨syn, flip, errdet, h, fun hpos => absurd htx hpos.ne', fun hpos => absurd hdec hpos.ne'⟩

theorem tableDraws_trial (s : State) : tableDraws .trial s = tableDraws (.run 1) s := (Nat.one_mul _).symm

theorem completion_run_withFlags {imm24 : BitVec 24} {s : State} {us : List Draw}
    (hf : firstFault (.run imm24) s = none) (hlen : us.length = tableDraws (.run imm24) s) (syn : Poly)
    (flip errdet : Bool) :
    completion (.run imm24) us (s.withFlags syn flip errdet) = completion (.run imm24) us s := by
  obtain ⟨-, hcount, -⟩ := (firstFault_run_eq_none_iff imm24 s).1 hf
  obtain ⟨g, hg, -⟩ := trialChecks_of_no_fault hf
  have hpos : imm24.toNat ≠ 0 := fun h => hcount (BitVec.eq_of_toNat_eq h)
  have hus : us ≠ [] := by
    rw [← List.length_pos_iff, hlen]
    exact Nat.pos_of_ne_zero (Nat.mul_ne_zero hpos (by omega))
  rw [completion_run us hg, completion_run (s := s.withFlags syn flip errdet) us hg]
  exact s.recordTrials_withFlags syn flip errdet g hpos hus

theorem completion_withFlags {i : Instr} {s : State} {us : List Draw} (hf : firstFault i s = none)
    (hlen : us.length = tableDraws i s) (syn : Poly) (flip errdet : Bool) :
    PassesFlags i (completion i us s) (completion i us (s.withFlags syn flip errdet)) := by
  cases i with
  | mod rd rs1 rs2 =>
    obtain ⟨b, hb⟩ := divisor_of_no_fault hf
    rw [completion_mod us hb, completion_mod (s := s.withFlags syn flip errdet) us hb]
    exact passesFlags_of_silent rfl rfl (syn := syn) (flip := flip) (errdet := errdet) rfl
  | enc rd rs1 =>
    obtain ⟨g, hg, -⟩ := encChecks_of_no_fault hf
    rw [completion_enc us hg, completion_enc (s := s.withFlags syn flip errdet) us hg]
    exact passesFlags_of_silent rfl rfl (syn := syn) (flip := flip) (errdet := errdet) rfl
  | tx rd rs1 w =>
    refine ⟨syn, (transmit s.prob us (s.readX rs1)).2, errdet, ?_, fun _ => ?_, fun h => ?_⟩
    · exact State.recordTransmission_withFlags (s.writeX rd _) syn flip errdet _
    · rw [completion, State.recordTransmission_status]
    · cases h
  | dec rd rs1 =>
    obtain ⟨g, hg, -⟩ := decChecks_of_no_fault hf
    rw [completion_dec us hg, completion_dec (s := s.withFlags syn flip errdet) us hg]
    refine ⟨syndrome g (s.readX rs1), flip, errorDetected g (s.readX rs1), ?_, fun h => ?_, fun _ => ?_⟩
    · exact State.recordDecode_withFlags (s.writeX rd _) syn flip errdet _ _
    · cases h
    · rw [State.recordDecode_syn, State.recordDecode_status]
      exact ⟨rfl, rfl⟩
  | trial =>
    have hrun := completion_run_withFlags (imm24 := 1) (firstFault_trial s ▸ hf) (tableDraws_trial s ▸ hlen) syn flip
      errdet
    exact passesFlags_of_eq _ hrun
  | run imm24 => exact passesFlags_of_eq _ (completion_run_withFlags hf hlen syn flip errdet)
  | _ => exact passesFlags_of_silent rfl rfl (syn := syn) (flip := flip) (errdet := errdet) rfl

/-- Settles O58: the checks and the draws do not see the three, and a completed command passes them on or writes them
by `completion_withFlags`. -/
theorem noCommandReadsFlags : Obligations.NoCommandReadsFlags := by
  intro i s s' t hsame h
  obtain ⟨syn, flip, errdet, rfl⟩ : ∃ syn flip errdet, s' = s.withFlags syn flip errdet :=
    ⟨_, _, _, eq_withFlags_of_sameButFlags hsame⟩
  have hfault := firstFault_withFlags s syn flip errdet i
  have hdraws := tableDraws_withFlags s syn flip errdet i
  rcases exec_cases h with ⟨hr, rfl⟩ | ⟨hr, f, hf, rfl⟩ | ⟨hr, hf, hsilent, rfl⟩ | ⟨hr, hf, us, d, htake, rfl⟩
  · exact ⟨_, exec_of_not_ready (s := t.withFlags syn flip errdet) hr, hsame, fun hready => by simp [hr] at hready⟩
  · refine ⟨_, exec_of_firstFault (s := s.withFlags syn flip errdet) hr (hfault.trans hf), ?_, fun _ hnone => ?_⟩
    · exact sameButFlags_withFlags (s.raise f (encode i)) syn flip errdet
    · simp [hf] at hnone
  · have hexec : exec i (s.withFlags syn flip errdet) = .next (s.withFlags syn flip errdet).awaitDraws := by
      rw [exec_of_no_fault (s := s.withFlags syn flip errdet) hr (hfault.trans hf), hdraws,
        State.drawing_of_silent (s := s.withFlags syn flip errdet) hsilent]
    exact ⟨_, hexec, sameButFlags_withFlags s.awaitDraws syn flip errdet, fun _ _ hidle => nomatch hidle⟩
  · obtain ⟨hlen, -⟩ := RandomSource.take_spec _ htake
    obtain ⟨syn', flip', errdet', hpass, htx, hdec⟩ := completion_withFlags hf hlen syn flip errdet
    refine ⟨_, exec_of_take (s := s.withFlags syn flip errdet) hr (hfault.trans hf) (hdraws ▸ htake), ?_,
      fun _ _ _ => ⟨?_, ?_⟩⟩ <;> rw [hpass]
    · exact sameButFlags_withFlags ((completion i us s).setSource d) syn' flip' errdet'
    · exact htx
    · exact hdec

end Sys2Proof.Machine
end

section
/-! Runs of trials, and a trial taken apart (`45_statistics.md` R185 to R187 fact 1): the statements O50, O51 and
O54. -/

namespace Sys2Proof.Machine

/-! ### Commands one after another -/

theorem execAll_cons {i : Instr} {s t : State} (h : exec i s = .next t) (is : List Instr) :
    execAll (i :: is) s = execAll is t := by
  simp only [execAll, h]

/-- What the checks of trials need, and what `n` trials keep of it. -/
structure HasRoom (g : Divisor) (n : Nat) (s : State) : Prop where
  ready : s.ready = true
  gen : g.val = s.gen
  width : trialWidth g s ≤ 16
  sent : s.sent.toNat + n ≤ 4294967295
  det : s.det.toNat + n ≤ 4294967295

theorem hasRoom_of_no_fault {imm24 : BitVec 24} {s : State} (hr : s.ready = true)
    (hf : firstFault (.run imm24) s = none) : ∃ g, HasRoom g imm24.toNat s := by
  have hmax := imm24.isLt
  obtain ⟨g, hg, hchecks⟩ := trialChecks_of_no_fault hf
  obtain ⟨-, -, hwidth, hsent, hdet⟩ := (trialChecks_eq_ok s _ g (by omega)).1 hchecks
  exact ⟨g, hr, hg, hwidth, hsent, hdet⟩

theorem HasRoom.trialChecks {g : Divisor} {n : Nat} {s : State} (h : HasRoom g n s) (hn : n ≠ 0) :
    Machine.trialChecks s n = .ok g := by
  obtain ⟨-, hgen, hwidth, hsent, hdet⟩ := h
  exact (trialChecks_eq_ok s n g (by omega)).2 ⟨hgen, hn, hwidth, hsent, hdet⟩

theorem HasRoom.mono {g : Divisor} {m n : Nat} {s : State} (h : HasRoom g n s) (hle : m ≤ n) : HasRoom g m s := by
  obtain ⟨hready, hgen, hwidth, hsent, hdet⟩ := h
  exact ⟨hready, hgen, hwidth, by omega, by omega⟩

theorem trials_countsTrials {g : Divisor} {n : Nat} {s t : State} (hsent : s.sent.toNat + n ≤ 4294967295)
    (hdet : s.det.toNat + n ≤ 4294967295) (h : trials g n s = some t) : CountsTrials n s t := by
  rw [trials_eq] at h
  obtain ⟨⟨us, d⟩, -, rfl⟩ := Option.map_eq_some_iff.1 h
  exact State.recordTrials_countsTrials g n us hsent hdet

theorem HasRoom.trials {g : Divisor} {m n : Nat} {s t : State} (h : HasRoom g (m + n) s)
    (htrials : Machine.trials g m s = some t) : HasRoom g n t := by
  obtain ⟨hready, hgen, hwidth, hsent, hdet⟩ := h
  obtain ⟨⟨-, gen_eq, -, kw_eq, err_eq, -, -, -, act_eq⟩, -⟩ := trials_frame m htrials
  obtain ⟨-, hsent', -, hdet', -⟩ := trials_countsTrials (by omega) (by omega) htrials
  refine ⟨?_, hgen.trans gen_eq.symm, ?_, by omega, by omega⟩
  · rw [State.ready_iff, act_eq, err_eq]
    exact (State.ready_iff s).1 hready
  · rwa [trialWidth, kw_eq]

theorem exec_run_of_trials {imm24 : BitVec 24} {g : Divisor} {s t : State} (hroom : HasRoom g imm24.toNat s)
    (hcount : imm24.toNat ≠ 0) (h : trials g imm24.toNat s = some t) : exec (.run imm24) s = .next t := by
  rw [exec_run, State.runCommand_ok _ _ _ _ hroom.ready (hroom.trialChecks hcount), State.afterTrials, h]

theorem exec_trial_of_trial {g : Divisor} {n : Nat} {s t : State} (hroom : HasRoom g (n + 1) s)
    (h : trial g s = some t) : exec .trial s = .next t := by
  have hchecks := (hroom.mono (Nat.le_add_left 1 n)).trialChecks one_ne_zero
  rw [exec_trial, State.runCommand_ok _ _ _ _ hroom.ready hchecks, State.afterTrials, trials_succ, h]
  rfl

theorem execAll_replicate_trial {g : Divisor} (n : Nat) {s t : State} (hroom : HasRoom g n s)
    (h : trials g n s = some t) : execAll (List.replicate n .trial) s = .next t := by
  induction n generalizing s with
  | zero => cases h; rfl
  | succ n ih =>
    rw [trials_succ] at h
    obtain ⟨r, hfirst, hrest⟩ := Option.bind_eq_some_iff.1 h
    have hone : trials g 1 s = some r := by
      rw [trials_succ, hfirst]
      rfl
    have hroom' : HasRoom g (1 + n) s := Nat.add_comm n 1 ▸ hroom
    rw [List.replicate_succ, execAll_cons (exec_trial_of_trial hroom hfirst)]
    exact ih (hroom'.trials hone) hrest

theorem exists_trials {g : Divisor} {n : Nat} {s : State} (hg : g.val = s.gen)
    (h : s.source.canAnswer (n * (1 + s.kw.toNat + (deg s.gen).toNat)) = true) : ∃ t, trials g n s = some t := by
  rw [← one_add_trialWidth hg, ← trials_isSome] at h
  exact Option.isSome_iff_exists.1 h

/-! ### RUN -/

/-- Settles O50: what passes the checks leaves what `trials` leaves, and so do as many TRIAL commands; the faults are
those of `firstFault`. -/
theorem runRunsItsTrials : Obligations.RunRunsItsTrials := by
  intro imm24
  refine ⟨Laws.decode_encode_run imm24, fun s hr hgen hcount hwide hsent hdet hanswers => ?_, fun s hr hzero => ?_,
    fun s hr hgen hrange => ?_, fun s hr hgen hcount hwide hfull => ?_⟩
  · obtain ⟨g, hroom⟩ := hasRoom_of_no_fault hr
      ((firstFault_run_eq_none_iff imm24 s).2 ⟨hgen, hcount, hwide, hsent, hdet⟩)
    obtain ⟨t, ht⟩ := exists_trials hroom.gen hanswers
    obtain ⟨⟨hx, gen_eq, prob_eq, kw_eq, err_eq, ecmd_eq, halt_eq, host_eq, act_eq⟩, hused, -⟩ := trials_frame _ ht
    rw [one_add_trialWidth hroom.gen] at hused
    have hregs : SameRegs s t := fun r => by simp [State.readX, hx]
    exact ⟨t, exec_run_of_trials hroom (BitVec.toNat_ne.1 hcount) ht, execAll_replicate_trial _ hroom ht, hused,
      hregs, ⟨gen_eq, prob_eq, kw_eq⟩, ⟨err_eq, ecmd_eq, halt_eq⟩, host_eq, act_eq.trans ((State.ready_iff s).1 hr).1⟩
  · exact faultsWith_of_firstFault hr (by simp [firstFault, hzero])
  · refine faultsWith_of_firstFault hr ?_
    simp only [firstFault, if_neg hgen]
    rcases hrange with h | h <;> split_ifs <;> rfl
  · refine faultsWith_of_firstFault hr ?_
    simp only [firstFault, if_neg hgen, if_neg hcount, if_neg (not_lt.2 hwide)]
    rcases hfull with h | h <;> split_ifs <;> rfl

/-- Settles O51: trials one after another are `trials_add`, and those of the first run leave room for the second. -/
theorem consecutiveRunsAdd : Obligations.ConsecutiveRunsAdd := by
  intro s a b hready ha hb hsum hf hanswers
  have htotal : (a + b).toNat = a.toNat + b.toNat := BitVec.toNat_add_of_lt hsum
  have ha : a.toNat ≠ 0 := BitVec.toNat_ne.1 ha
  obtain ⟨g, hroom⟩ := hasRoom_of_no_fault hready hf
  obtain ⟨t, ht⟩ := exists_trials hroom.gen hanswers
  have hrun := exec_run_of_trials hroom (by omega) ht
  rw [htotal] at hroom ht
  obtain ⟨r, hr, hrest⟩ := Option.bind_eq_some_iff.1 ((trials_add g _ _ s).symm.trans ht)
  have hfirst := exec_run_of_trials (hroom.mono (Nat.le_add_right _ _)) ha hr
  have hsecond := exec_run_of_trials (hroom.trials hr) (BitVec.toNat_ne.1 hb) hrest
  refine ⟨t, hrun, ?_⟩
  rw [execAll_cons hfirst, execAll_cons hsecond]
  rfl

/-! ### TRIAL and the single commands (R185) -/

theorem deg_infoword_lt (u : Draw) {k : Nat} (hk : k ≤ 16) : deg (infoword u k) < k :=
  (deg_lt_iff _ k).2 fun _ hj =>
    Nat.testBit_lt_two_pow ((infoword_lt u hk).trans_le (Nat.pow_le_pow_right (by omega) hj))

theorem encodable_infoword {g : Divisor} (u : Draw) {k : Nat} (hk : k + g.deg ≤ 16) : encodable g (infoword u k) := by
  have hdeg := deg_infoword_lt u (k := k) (by omega)
  have hg := g.deg_coe
  exact .inr (by omega)

/-- A codeword of a `k`-bit word has no bit above the width of the transmission. -/
theorem codeword_infoword_ushiftRight {g : Divisor} (u : Draw) {k : Nat} (hk : k + g.deg ≤ 16) :
    codeword g (infoword u k) >>> (k + g.deg) = 0 := by
  rw [Nat.add_comm, BitVec.shiftRight_add, codeword_ushiftRight (encodable_infoword u hk)]
  apply BitVec.eq_of_toNat_eq
  rw [BitVec.toNat_ushiftRight, Nat.shiftRight_eq_div_pow]
  exact Nat.div_eq_of_lt (infoword_lt u (by omega))

theorem exec_enc_of_encodable {g : Divisor} {rd rs1 : RegNum} {s : State} (hr : s.ready = true)
    (hgen : g.val = s.gen) (hfits : encodable g (s.readX rs1)) :
    exec (.enc rd rs1) s = .next (s.writeX rd (codeword g (s.readX rs1))) :=
  (exec_enc s rd rs1).trans (State.runCommand_ok _ _ _ _ hr ((encChecks_eq_ok _ _ g).2 ⟨hgen, hfits⟩))

theorem exec_dec_of_room {g : Divisor} {rd rs1 : RegNum} {s : State} (hr : s.ready = true) (hgen : g.val = s.gen)
    (hdet : s.det.toNat < 4294967295) :
    exec (.dec rd rs1) s = .next ((s.writeX rd (informationWord g (s.readX rs1))).recordDecode
      (errorDetected g (s.readX rs1)) (syndrome g (s.readX rs1))) :=
  (exec_dec s rd rs1).trans (State.runCommand_ok _ _ _ _ hr ((decChecks_eq_ok s g).2 ⟨hgen, hdet⟩))

@[simp] theorem State.ready_writeX (s : State) (rd : RegNum) (v : Poly) : (s.writeX rd v).ready = s.ready := rfl

@[simp] theorem State.ready_recordTransmission (s : State) (any : Bool) :
    (s.recordTransmission any).ready = s.ready := by
  cases any <;> rfl

/-- The state in which LDI, ENC, TX and DEC leave the engine when they send the `k`-bit word `m` with the draws `us`. -/
def State.singleCommands (s : State) (g : Divisor) (xa xb xc xd : RegNum) (m : Poly) (us : List Draw)
    (d : RandomSource) : State :=
  let received := (transmit s.prob us (codeword g m)).1
  (((((s.writeX xa m).writeX xb (codeword g m)).setSource d).writeX xc received).recordTransmission
    (transmit s.prob us (codeword g m)).2).writeX xd (informationWord g received) |>.recordDecode
      (errorDetected g received) (syndrome g received)

theorem execAll_singleCommands {g : Divisor} {s : State} {m : Poly} {w : BitVec 5} {us : List Draw} {d : RandomSource}
    (xa xb xc xd : RegNum) (hroom : HasRoom g 1 s) (hfits : encodable g m) (hw : w.toNat ≤ 16)
    (hlow : codeword g m >>> w.toNat = 0) (htake : s.source.take w.toNat = some (us, d)) :
    execAll [.ldi xa m, .enc xb xa, .tx xc xb w, .dec xd xc] s =
      .next (s.singleCommands g xa xb xc xd m us d) := by
  obtain ⟨hready, hgen, -, hsent, hdet⟩ := hroom
  have hldi : exec (.ldi xa m) s = .next (s.writeX xa m) :=
    (exec_ldi s xa m).trans (State.runCommand_ok _ _ _ _ hready rfl)
  have henc := exec_enc_of_encodable (rd := xb) (rs1 := xa) (s := s.writeX xa m) hready hgen (by simpa using hfits)
  rw [State.readX_writeX_self] at henc
  have hchecks := (txChecks_eq_ok ((s.writeX xa m).writeX xb (codeword g m)) xb w ()).2
    ⟨hw, by simpa using hlow, Nat.lt_of_succ_le hsent⟩
  have htx := exec_tx_of_take (rd := xc) (s := (s.writeX xa m).writeX xb (codeword g m)) hready hchecks htake
  rw [State.readX_writeX_self] at htx
  rw [execAll_cons hldi, execAll_cons henc, execAll_cons htx, execAll_cons (exec_dec_of_room (g := g) ?_ ?_ ?_)]
  · simp [execAll, State.singleCommands]
  · simpa using hready
  · simpa using hgen
  · rw [State.recordTransmission_det]
    exact Nat.lt_of_succ_le hdet

theorem singleCommands_agrees_with_recordTrial (s : State) (g : Divisor) (xa xb xc xd : RegNum) (u : Draw)
    (us : List Draw) (d e : RandomSource) :
    let t := (s.setSource e).recordTrial g u us
    let t' := (s.setSource d).singleCommands g xa xb xc xd (infoword u s.kw.toNat) us e
    t'.sent = t.sent ∧ t'.det = t.det ∧ t'.syn = t.syn ∧ t'.status = t.status ∧ t'.source = t.source := by
  simp [State.recordTrial, State.singleCommands]

/-- Settles O54: the four commands encode, transmit and decode the trial's word with the trial's draws. -/
theorem trialAgreesWithSingleCommands : Obligations.TrialAgreesWithSingleCommands := by
  intro s xa xb xc xd u d hready hf hanswers hdraw
  obtain ⟨g, hroom⟩ := hasRoom_of_no_fault hready (firstFault_trial s ▸ hf)
  have hgen := hroom.gen
  have hk : s.kw.toNat + g.deg ≤ 16 := hroom.width
  have hdraws : tableDraws .trial s = trialWidth g s + 1 := by
    rw [Nat.add_comm, one_add_trialWidth hgen]
    rfl
  rw [← RandomSource.take_isSome, hdraws, RandomSource.take_succ, hdraw, Option.bind_some, Option.isSome_map]
    at hanswers
  obtain ⟨⟨us, e⟩, htake⟩ := Option.isSome_iff_exists.1 hanswers
  have htrial : s.source.take (1 + trialWidth g s) = some (u :: us, e) := by
    rw [Nat.add_comm, RandomSource.take_succ, hdraw, Option.bind_some, htake]
    rfl
  have hw : (BitVec.ofNat 5 (s.kw.toNat + (deg s.gen).toNat)).toNat = s.kw.toNat + g.deg := by
    rw [Divisor.deg, hgen] at hk ⊢
    rw [BitVec.toNat_ofNat, Nat.mod_eq_of_lt (by omega)]
  have hroom' : HasRoom g 1 (s.setSource d) := ⟨hroom.ready, hgen, hk, hroom.sent, hroom.det⟩
  have htake' : d.take (s.kw.toNat + g.deg) = some (us, e) := htake
  have hall := execAll_singleCommands (s := s.setSource d) xa xb xc xd hroom' (encodable_infoword u hk) (hw ▸ hk)
    (hw ▸ codeword_infoword_ushiftRight u hk) (hw.symm ▸ htake')
  exact ⟨_, _, exec_trial_of_take hready (hroom.trialChecks one_ne_zero) htrial, hall,
    singleCommands_agrees_with_recordTrial s g xa xb xc xd u us d e⟩

end Sys2Proof.Machine
end
